-- ==== Sys2Proof/Word.lean ====
section
/-! DEFINITION. The widths every other file speaks in (spec/00_scope.md R4 XLEN, R5). -/

namespace Sys2Proof

/-- Addresses, lengths, masks, frequencies, nanosecond counts and command words: XLEN = 32 (R4, D2). -/
abbrev Word := BitVec 32

/-- One byte of host memory or of a buffer (R5 `u8`). -/
abbrev Byte := BitVec 8

/-- A chip-select index: the 4-bit `dev` field of a header, and the DeviceHandle (R65, R20, R156). -/
abbrev Slot := BitVec 4

/-- `bit(n)`: the mask with only bit `n` set (R5). -/
def bit (n : Nat) : Word := BitVec.twoPow 32 n

/-- The mask of the lines below `n`. -/
def maskBelow (n : Nat) : Word := BitVec.ofNat 32 (2 ^ n - 1)

end Sys2Proof
end

