-- ==== Sys2Proof/Syntax.lean ====
section
/-! DEFINITION. The operation set, version 1 (spec/30_encoding.md R66): one constructor per row of
spec/opcode_table.json. The fields are exactly the operands of R70 to R78. -/

namespace Sys2Proof

/-- The block's sixteen operations: three host commands, then thirteen internal micro-operations. -/
inductive Instr where
  /-- REGDEV (R70, R155). -/
  | regdev (dev : Slot) (bpw mode : Byte) (hz : Word)
  /-- SUBMIT (R71, R157). -/
  | submit (dev : Slot) (msg : Word)
  /-- SUBMIT_ATOMIC (R72, R164). -/
  | submitAtomic (dev : Slot) (msg : Word)
  /-- GPIO_SET (R73, R90). -/
  | gpioSet (high low : Word)
  /-- GPIO_GET (R73, R92). -/
  | gpioGet
  /-- GPIO_DIR (R73, R94); `direction` 0 input, 1 push-pull, 2 open-drain, 3 reserved. -/
  | gpioDir (direction : BitVec 2) (mask : Word)
  /-- DELAY (R74, R96). -/
  | delay (ns : Word)
  /-- SHIFT_BYTE (R75, R102, R103). -/
  | shiftByte (cpha cpol wantRx : Bool) (tx : Byte)
  /-- SHIFT_WORD (R77, R106); `count` 0 and 33 to 63 are reserved. -/
  | shiftWord (cs : Slot) (cpol : Bool) (count : BitVec 6) (tx : Word)
  /-- XFER (R78, R110). -/
  | xfer (dev : Slot) (desc : Word)
  /-- SET_SPEED (R78, R121). -/
  | setSpeed (hz : Word)
  /-- CS_ASSERT (R78, R136). -/
  | csAssert (dev : Slot)
  /-- CS_DEASSERT (R78, R137). -/
  | csDeassert (dev : Slot)
  /-- PROCESS_MSG (R78, R139). -/
  | processMsg (dev : Slot) (msg : Word)
  /-- WORKER_STEP (R78, R160). -/
  | workerStep
  /-- COMPLETE (R78, R162). -/
  | complete (dev : Slot) (msg : Word)
  deriving DecidableEq, Repr

end Sys2Proof
end

