-- ==== Sys2Proof/Config.lean ====
section
/-! DEFINITION. The implementation parameters (spec/00_scope.md R4) and the free values: what the spec
leaves open and no proof may look into. -/

namespace Sys2Proof

/-- `ENGINE` (R4): only the software path, or the shift-register peripheral beside it. -/
inductive Engine where
  | bitBang
  | hwShift
  deriving DecidableEq, Repr

/-- The per-slot parameters of R4: `CS[i]`, `SLOW[i]`, `AUX_HIGH[i]`, `AUX_LOW[i]`, `STROBE[i]`. -/
structure SlotConfig where
  cs : Nat
  slow : Bool := false
  auxHigh : Word := 0
  auxLow : Word := 0
  strobe : Word := 0
  deriving DecidableEq, Repr

/-- The parameters of R4. `NDEV` is the number of entries of `slots`. `divTable` is the law `div_freq`
over `DIV_MIN .. DIV_MAX` as its list of values; `none` is the default law of R4. `queueDepth` is
`QUEUE_DEPTH`, `none` for unbounded. `windowBase` is the platform's base of the register window in host
addresses (R22, R50). `hwFaults` is the oracle `hw_fault(d, t, n)` that 93_implementation_defined.md U10
lets a model add, as the list of the points where it is true; empty is the spec's own model (R112). -/
structure Config where
  nlines : Nat
  sck : Nat
  mosi : Nat
  miso : Nat
  slots : List SlotConfig
  fixedOverheadNs : Word
  hostClkHz : Word
  engine : Engine
  hasDivider : Bool
  divMin : BitVec 16
  divMax : BitVec 16
  divTable : Option (List Word) := none
  flushOnSet : Bool := false
  gpioMapped : Bool := true
  cpha1Supported : Bool := true
  queueDepth : Option Nat := none
  windowBase : Word
  hwFaults : List (Slot × Word × Nat) := []
  deriving DecidableEq, Repr

/-- `NDEV` (R4, R20). -/
def Config.ndev (c : Config) : Nat := c.slots.length

/-- `d < NDEV`. -/
def Config.hasSlot (c : Config) (d : Slot) : Bool := decide (d.toNat < c.ndev)

/-- The per-slot parameters of slot `d`; a slot that does not exist has no hook and no line (line 32 is no
bit of a mask). No operation uses the entry of such a slot. -/
def Config.slot (c : Config) (d : Slot) : SlotConfig := c.slots.getD d.toNat { cs := 32 }

/-- The mask of all lines the block owns: bits `>= NLINES` are 0 (R4, D12). -/
def Config.lineMask (c : Config) : Word := maskBelow c.nlines

/-- `AUX_HIGH`, `AUX_LOW` and `STROBE` of every slot joined: `A_high`, `A_low`, `A_strobe` of R210. -/
def Config.allAuxHigh (c : Config) : Word := c.slots.foldr (fun p m => p.auxHigh ||| m) 0

def Config.allAuxLow (c : Config) : Word := c.slots.foldr (fun p m => p.auxLow ||| m) 0

def Config.allStrobe (c : Config) : Word := c.slots.foldr (fun p m => p.strobe ||| m) 0

/-- The lines construction makes push-pull outputs (R210). -/
def Config.resetPP (c : Config) : Word :=
  bit c.sck ||| bit c.mosi ||| c.allAuxHigh ||| c.allAuxLow ||| c.allStrobe

/-- The lines construction latches low (R210). -/
def Config.resetLow (c : Config) : Word :=
  bit c.sck ||| bit c.mosi ||| c.allAuxHigh ||| c.allStrobe

/-- Every chip-select line as one mask. -/
def Config.allCs (c : Config) : Word := c.slots.foldr (fun p m => bit p.cs ||| m) 0

/-- `div_freq(d)`: the table's value, or the default law `floor(HOST_CLK_HZ / (2*(d+1)))` (R4, R125 d). -/
def Config.divFreq (c : Config) (d : BitVec 16) : Nat :=
  match c.divTable with
  | some values => (values.getD (d.toNat - c.divMin.toNat) 0).toNat
  | none => c.hostClkHz.toNat / (2 * (d.toNat + 1))

/-- `div_freq` never increases: each listed value is at most the one before it (R4, C12). -/
def Config.nonIncreasing : List Word → Bool
  | a :: b :: rest => decide (b.toNat ≤ a.toNat) && Config.nonIncreasing (b :: rest)
  | _ => true

/-- The size in bytes of the register window: the listed offsets end with `DEV_HZ[NDEV-1]` (R22). -/
def Config.windowSize (c : Config) : Nat := 0x80 + 8 * c.ndev

/-- The constraints R4 puts on the parameters. -/
def Config.wf (c : Config) : Bool :=
  let lines := [c.sck, c.mosi, c.miso] ++ c.slots.map SlotConfig.cs
  let signals := bit c.sck ||| bit c.mosi ||| bit c.miso ||| c.allCs
  decide (1 ≤ c.nlines ∧ c.nlines ≤ 32)
    && decide (1 ≤ c.ndev ∧ c.ndev ≤ 16)
    && lines.all (fun n => decide (n < c.nlines))
    && decide lines.Nodup
    && c.slots.all (fun p =>
        decide (p.auxHigh &&& p.auxLow = 0)
          && decide ((p.auxHigh ||| p.auxLow ||| p.strobe) &&& signals = 0)
          && decide ((p.auxHigh ||| p.auxLow ||| p.strobe) &&& ~~~c.lineMask = 0))
    && decide (c.allAuxLow &&& (c.allAuxHigh ||| c.allStrobe) = 0)
    && decide (c.divMin.toNat ≤ c.divMax.toNat)
    && (!c.hasDivider || decide (c.engine = .hwShift))
    && (match c.divTable with
        | none => true
        | some values =>
          decide (values.length = c.divMax.toNat - c.divMin.toNat + 1) && Config.nonIncreasing values)

/-- The platform of `State.reset`: platform H of 95_test_vectors.md section 0 (a legal choice of R4, not
the spec's law). -/
def Config.reference : Config where
  nlines := 8
  sck := 0
  mosi := 1
  miso := 2
  slots := [{ cs := 3 }, { cs := 4 }]
  fixedOverheadNs := 12
  hostClkHz := 200000000
  engine := .hwShift
  hasDivider := true
  divMin := 0
  divMax := 63
  windowBase := 0xF0000000

/-- FREE VALUE: what the `k`-th draw of a GPIO_GET answer is once the environment's script is used up
(R92, R93, U2). -/
opaque Config.freeLines : Nat → Word

/-- FREE VALUE: the byte at an address of host memory nobody has written (no source gives it). -/
opaque Config.unwrittenByte : Word → Byte

/-- FREE VALUE: what the `k`-th read gives for the byte at an address that the host wrote while it was in
flight (R57, U7). -/
opaque Config.racedByte : Nat → Word → Byte

end Sys2Proof
end

