-- ==== Sys2Proof/WellFormed.lean ====
section
/-! DEFINITION. Well-formed operations: the operand values the spec's rules produce (spec/30_encoding.md
R81, spec/40_gpio_lines.md R90 and R91, spec/42_speed_calculator.md R120, spec/20_memory.md R43). -/

namespace Sys2Proof

/-- A descriptor address is nonzero and a multiple of 4 (R43). -/
def descriptorAddress (a : Word) : Bool := decide (a ≠ 0) && decide (a.toNat % 4 = 0)

/-- A mask names lines the block owns only (R90, R94, U15). -/
def ownLines (c : Config) (m : Word) : Bool := decide (m &&& ~~~c.lineMask = 0)

/-- The operand check of R81 and of the operand lines of each operation's rule. -/
def Instr.wf (c : Config) : Instr → Bool
  | .regdev dev _ _ _ => c.hasSlot dev
  | .submit dev msg => c.hasSlot dev && descriptorAddress msg
  | .submitAtomic dev msg => c.hasSlot dev && descriptorAddress msg
  | .gpioSet high low => decide (high &&& low = 0) && ownLines c (high ||| low)
  | .gpioGet => true
  | .gpioDir direction mask => decide (direction ≠ 3) && ownLines c mask
  | .delay _ => true
  | .shiftByte cpha _ _ _ => !cpha || c.cpha1Supported
  | .shiftWord cs _ count _ =>
    decide (c.engine = .hwShift) && c.hasSlot cs && decide (1 ≤ count.toNat ∧ count.toNat ≤ 32)
  | .xfer dev desc => c.hasSlot dev && descriptorAddress desc
  | .setSpeed hz => decide (hz ≠ 0)
  | .csAssert dev => c.hasSlot dev
  | .csDeassert dev => c.hasSlot dev
  | .processMsg dev msg => c.hasSlot dev && descriptorAddress msg
  | .workerStep => true
  | .complete dev msg => c.hasSlot dev && descriptorAddress msg

end Sys2Proof
end

