-- ==== Sys2Proof/Decode.lean ====
section
/-! DEFINITION. Decoding and encoding (spec/30_encoding.md R65 to R82): the triple of three 32-bit words,
the words a host may write to CMD, and the encoder written from the same formats. -/

namespace Sys2Proof

/-- An operation as its three words (R65). -/
structure Triple where
  header : Word
  arg0 : Word
  arg1 : Word
  deriving DecidableEq, Repr

/-- Why a triple, or a word written to CMD, names no operation (R65, R80). -/
inductive DecodeError where
  /-- the opcode byte is in no row of R66 -/
  | reservedOpcode
  /-- an unused header bit is 1 -/
  | mustBeZero
  /-- an argument word the operation does not use is not 0 -/
  | unusedArgument
  /-- a micro-operation opcode written to CMD -/
  | notAHostCommand
  deriving DecidableEq, Repr

/-! ### Header fields (R65) -/

def opField (h : Word) : BitVec 8 := h.extractLsb' 24 8

def devField (h : Word) : Slot := h.extractLsb' 20 4

def immField (h : Word) : BitVec 20 := h.extractLsb' 0 20

/-- The header with the three fields `op`, `dev`, `imm` (R65). -/
def mkHeader (op : BitVec 8) (dev : Slot) (imm : BitVec 20) : Word := op ++ dev ++ imm

/-! ### Decoding -/

/-- What a decoder answers once the opcode is known: the instruction, unless an unused header bit or an
unused argument word is set (R65 "unused bits must be 0"). -/
def accept (headerClean argsClean : Bool) (i : Instr) : Except DecodeError Instr :=
  if headerClean then (if argsClean then .ok i else .error .unusedArgument) else .error .mustBeZero

/-- Decode a triple by R70 to R78. Total: every other header is refused by name. -/
def decode (t : Triple) : Except DecodeError Instr :=
  let h := t.header
  let dev := devField h
  let imm := immField h
  let noDev := decide (dev = 0)
  let noImm := decide (imm = 0)
  let no0 := decide (t.arg0 = 0)
  let no1 := decide (t.arg1 = 0)
  if opField h = 0x01 then
    accept (decide (imm.extractLsb' 16 4 = 0)) no1
      (.regdev dev (imm.extractLsb' 8 8) (imm.extractLsb' 0 8) t.arg0)
  else if opField h = 0x02 then accept noImm no1 (.submit dev t.arg0)
  else if opField h = 0x03 then accept noImm no1 (.submitAtomic dev t.arg0)
  else if opField h = 0x80 then accept (noDev && noImm) true (.gpioSet t.arg0 t.arg1)
  else if opField h = 0x81 then accept (noDev && noImm) (no0 && no1) .gpioGet
  else if opField h = 0x82 then
    accept (noDev && decide (imm.extractLsb' 2 18 = 0)) no1 (.gpioDir (imm.extractLsb' 0 2) t.arg0)
  else if opField h = 0x88 then accept (noDev && noImm) no1 (.delay t.arg0)
  else if opField h = 0x90 then
    accept (noDev && decide (imm.extractLsb' 11 9 = 0)) (no0 && no1)
      (.shiftByte (imm.getLsbD 10) (imm.getLsbD 9) (imm.getLsbD 8) (imm.extractLsb' 0 8))
  else if opField h = 0x91 then
    accept (decide (imm.extractLsb' 9 11 = 0) && decide (imm.extractLsb' 6 2 = 0)) no1
      (.shiftWord dev (imm.getLsbD 8) (imm.extractLsb' 0 6) t.arg0)
  else if opField h = 0x92 then accept noImm no1 (.xfer dev t.arg0)
  else if opField h = 0xA0 then accept (noDev && noImm) no1 (.setSpeed t.arg0)
  else if opField h = 0xB0 then accept noImm (no0 && no1) (.csAssert dev)
  else if opField h = 0xB1 then accept noImm (no0 && no1) (.csDeassert dev)
  else if opField h = 0xB2 then accept noImm no1 (.processMsg dev t.arg0)
  else if opField h = 0xC0 then accept (noDev && noImm) (no0 && no1) .workerStep
  else if opField h = 0xC1 then accept noImm no1 (.complete dev t.arg0)
  else .error .reservedOpcode

/-- Opcodes with bit 31 clear are host commands, the others micro-operations (R66). -/
def hostClass (header : Word) : Bool := !header.getLsbD 31

/-- R68: decode the word `w` written to CMD, with ARG0 as `arg0`. Only the three host commands decode; the
rest is INVALID (R80). -/
def decodeCmd (w arg0 : Word) : Except DecodeError Instr :=
  if hostClass w then decode { header := w, arg0 := arg0, arg1 := 0 } else .error .notAHostCommand

/-! ### Encoding -/

/-- The format of each operation: R70 to R78. -/
def encode : Instr → Triple
  | .regdev dev bpw mode hz => { header := mkHeader 0x01 dev (0#4 ++ bpw ++ mode), arg0 := hz, arg1 := 0 }
  | .submit dev msg => { header := mkHeader 0x02 dev 0, arg0 := msg, arg1 := 0 }
  | .submitAtomic dev msg => { header := mkHeader 0x03 dev 0, arg0 := msg, arg1 := 0 }
  | .gpioSet high low => { header := mkHeader 0x80 0 0, arg0 := high, arg1 := low }
  | .gpioGet => { header := mkHeader 0x81 0 0, arg0 := 0, arg1 := 0 }
  | .gpioDir direction mask => { header := mkHeader 0x82 0 (0#18 ++ direction), arg0 := mask, arg1 := 0 }
  | .delay ns => { header := mkHeader 0x88 0 0, arg0 := ns, arg1 := 0 }
  | .shiftByte cpha cpol wantRx tx =>
    { header := mkHeader 0x90 0
        (0#9 ++ BitVec.ofBool cpha ++ BitVec.ofBool cpol ++ BitVec.ofBool wantRx ++ tx)
      arg0 := 0, arg1 := 0 }
  | .shiftWord cs cpol count tx =>
    { header := mkHeader 0x91 cs (0#11 ++ BitVec.ofBool cpol ++ 0#2 ++ count), arg0 := tx, arg1 := 0 }
  | .xfer dev desc => { header := mkHeader 0x92 dev 0, arg0 := desc, arg1 := 0 }
  | .setSpeed hz => { header := mkHeader 0xA0 0 0, arg0 := hz, arg1 := 0 }
  | .csAssert dev => { header := mkHeader 0xB0 dev 0, arg0 := 0, arg1 := 0 }
  | .csDeassert dev => { header := mkHeader 0xB1 dev 0, arg0 := 0, arg1 := 0 }
  | .processMsg dev msg => { header := mkHeader 0xB2 dev 0, arg0 := msg, arg1 := 0 }
  | .workerStep => { header := mkHeader 0xC0 0 0, arg0 := 0, arg1 := 0 }
  | .complete dev msg => { header := mkHeader 0xC1 dev 0, arg0 := msg, arg1 := 0 }

/-! ### The opcode table's own rows and bit numbering -/

/-- `match` and `mask` of an operation's row of spec/opcode_table.json (R70 to R78). -/
def tableRow : Instr → Word × Word
  | .regdev .. => (0x01000000, 0xFF0F0000)
  | .submit .. => (0x02000000, 0xFF0FFFFF)
  | .submitAtomic .. => (0x03000000, 0xFF0FFFFF)
  | .gpioSet .. => (0x80000000, 0xFFFFFFFF)
  | .gpioGet => (0x81000000, 0xFFFFFFFF)
  | .gpioDir .. => (0x82000000, 0xFFFFFFFC)
  | .delay .. => (0x88000000, 0xFFFFFFFF)
  | .shiftByte .. => (0x90000000, 0xFFFFF800)
  | .shiftWord .. => (0x91000000, 0xFF0FFEC0)
  | .xfer .. => (0x92000000, 0xFF0FFFFF)
  | .setSpeed .. => (0xA0000000, 0xFFFFFFFF)
  | .csAssert .. => (0xB0000000, 0xFF0FFFFF)
  | .csDeassert .. => (0xB1000000, 0xFF0FFFFF)
  | .processMsg .. => (0xB2000000, 0xFF0FFFFF)
  | .workerStep => (0xC0000000, 0xFFFFFFFF)
  | .complete .. => (0xC1000000, 0xFF0FFFFF)

/-- The triple whose bits, counted from bit 0 of the header through `arg0` and `arg1`, are the low `nbits`
bits of `w`, every other bit 0. -/
def tableTriple (nbits w : Nat) : Triple :=
  let v := w % 2 ^ nbits
  { header := BitVec.ofNat 32 v
    arg0 := BitVec.ofNat 32 (v / 2 ^ 32)
    arg1 := BitVec.ofNat 32 (v / 2 ^ 64) }

/-- The instruction the decoder reads from the opcode table's bits `w`. -/
def decodeTableWord (nbits w : Nat) : Option Instr :=
  match decode (tableTriple nbits w) with
  | .ok i => some i
  | .error _ => none

end Sys2Proof
end

