-- ==== Sys2Proof/Machine/State.lean ====
section
/-! DEFINITION. The state of one controller (spec/10_state.md R10 to R35), its reset, and the reasons an
operation can stop. Plain data only. -/

namespace Sys2Proof.Machine

/-- Direction of a line: `IN`, `PP`, `OD` (R11). -/
inductive LineDir where
  | input
  | pushPull
  | openDrain
  deriving DecidableEq, Repr

/-- A completion record (R30). -/
structure CompRec where
  msg : Word
  callback : Word
  context : Word
  status : Word
  actualLength : Word
  deriving DecidableEq, Repr

/-- The events of the trace (00_scope R7). -/
inductive Event where
  | lineSet (high low : Word)
  | lineDir (mask : Word) (dir : LineDir)
  | lineGet (mask : Word)
  | delay (ns : Word)
  | memRead (addr : Word) (n : Nat) (v : Word)
  | memWrite (addr : Word) (n : Nat) (v : Word)
  | complete (record : CompRec)
  deriving DecidableEq, Repr

/-- Host memory: the bytes something has written, addresses strictly rising (20_memory R40). An address
not listed holds no value of the model's choosing. -/
structure Memory where
  cells : List Host.Cell
  deriving DecidableEq, Repr

/-- The clock mode of the device whose chip-select is asserted (R13). -/
structure Mode where
  cpol : Bool
  cpha : Bool
  deriving DecidableEq, Repr

/-- The sequencer position (R14); meaningful only while a Message is being processed. -/
structure Pos where
  xi : Nat
  bi : Nat
  ki : Nat
  deriving DecidableEq, Repr

/-- The speed state (R16). -/
structure Speed where
  curHz : Option Word
  softDelayNs : Word
  divider : Option (BitVec 16)
  deriving DecidableEq, Repr

/-- A slot of the device table (R20). -/
structure Device where
  valid : Bool
  maxSpeedHz : Word
  cpha : Bool
  cpol : Bool
  csHigh : Bool
  bpw : Byte
  deriving DecidableEq, Repr

/-- A queue entry: a Message and its target Device (R17); also what `inflight` names (R15). -/
structure Entry where
  msg : Word
  dev : Slot
  deriving DecidableEq, Repr

/-- What PROCESS_MSG hands to its caller: `h'`, and the status and length it wrote (R139, R162, R164). -/
structure SeqResult where
  held : Option Slot
  status : Word
  actual : Word
  deriving DecidableEq, Repr

/-- Where the worker is (R160): at the start of a locked region with nothing owed; past a locked region that took
the Message now in `inflight`, with the lock released and the Message not yet processed; or past the completion,
with the write-back of `h'` still owed to the next locked region. -/
inductive Worker where
  | atStart
  | serving
  | owes (held : Option Slot)
  deriving DecidableEq, Repr

/-- Where the atomic caller is (R8, R164): in no SUBMIT_ATOMIC; admitted, with the `hazard` of its admission test;
or past PROCESS_MSG, with the `h'` and the status that the write-back and RESULT still await. Its Message is in
`inflight`. -/
inductive Caller where
  | idle
  | admitted (hazard : Bool)
  | processed (result : SeqResult)
  deriving DecidableEq, Repr

/-- What an agent does next (00_scope R8). -/
inductive Action where
  /-- A host context issues an operation triple and it runs to its end (R65). -/
  | issue (header arg0 arg1 : Word)
  /-- A host context issues a command that other agents' moves may interleave with: of SUBMIT_ATOMIC only the
  admission test runs (R52, R164). -/
  | begin (header arg0 : Word)
  /-- The atomic caller goes on: PROCESS_MSG after the admission, the write-back after PROCESS_MSG (R164). -/
  | caller
  /-- The `i`-th SUBMIT_ATOMIC past its write-back writes RESULT (R164). -/
  | answer (i : Nat)
  /-- A host context writes a register (R22, R47). -/
  | writeReg (offset : Word) (width : Nat) (value : Word)
  /-- A host context reads a register (R22, R47). -/
  | readReg (offset : Word) (width : Nat)
  /-- The host stores a byte into its memory (R57). -/
  | store (addr : Word) (value : Byte)
  /-- The worker has a turn, or the rest of the one it is in (R160). -/
  | worker
  /-- The worker runs its locked region only (R52, R160). -/
  | workerLock
  /-- Reset is asserted (R212). -/
  | reset
  /-- Reset is asserted after the first `n` events of the move `move` (R212 "possibly in the middle of a byte"). -/
  | resetDuring (move : Action) (n : Nat)
  deriving DecidableEq, Repr

/-- The block never faults: 93_implementation_defined.md says of `fault` and `stuck` that they are "not used
by any entry; nothing in this block traps or halts". No constructor: no operation raises one (safe). -/
inductive Fault where
  deriving DecidableEq, Repr

/-- Inputs to which the spec gives no meaning. Every constructor is safe: no claim can be proved about what
the hardware does after such an input. -/
inductive Refusal where
  /-- Raised by `exec` alone, for an operation without a meaning. Safe. -/
  | notModelled (mnemonic : String)
  /-- Raised by a CMD write that R68 decodes to INVALID (R80, U8). Safe. -/
  | invalidCommand
  /-- Raised when a triple names no operation (R65, R80). Safe. -/
  | reservedEncoding
  /-- Raised by a register-window access that is not 32 bits wide and 4-byte aligned (R47, U9). Safe. -/
  | badWindowAccess
  /-- Raised by GPIO_SET with a line in both masks (R91, U1). Safe. -/
  | overlappingMasks
  /-- Raised by GPIO_SET and GPIO_DIR with a mask bit at or above NLINES (R90, R94, U15). Safe. -/
  | lineOutOfRange
  /-- Raised by GPIO_DIR with direction 3 (R81, U15). Safe. -/
  | reservedDirection
  /-- Raised by SHIFT_WORD with a count outside 1..32 (R81, U15). Safe. -/
  | reservedCount
  /-- Raised by every operation with a `dev` field when `dev >= NDEV` (R81, R156, U4). Safe. -/
  | noSuchSlot
  /-- Raised by SUBMIT, SUBMIT_ATOMIC, CS_ASSERT, CS_DEASSERT and PROCESS_MSG on a slot that is not valid
  (R136, R137, R139, R157, R164, U4). Safe. -/
  | slotNotRegistered
  /-- Raised by REGDEV on a valid slot (R155, R156, U4). Safe. -/
  | slotAlreadyRegistered
  /-- Raised by every operation given a descriptor address that is 0 or not a multiple of 4 (R43). Safe. -/
  | badDescriptorAddress
  /-- Raised by XFER, PROCESS_MSG, COMPLETE and their callers when they reach a malformed descriptor (R48, R192 e,
  U6). Safe. -/
  | malformedDescriptor
  /-- Raised by SUBMIT when a finite queue is full (R168, U5). Safe. -/
  | queueFull
  /-- Raised by COMPLETE when a finite completion FIFO is full (R30, U5). Safe. -/
  | completionFull
  /-- Raised by SUBMIT_ATOMIC while a Message is in the sequencer (R164, R166, U3). Safe. -/
  | atomicRace
  /-- Raised by SHIFT_WORD when `ENGINE` is not `HwShift`: the unit is absent (R106). Safe. -/
  | noShiftRegister
  /-- Raised by a shift with `cpha = 1` when `CPHA1_SUPPORTED` is false (R103). Safe. -/
  | phaseNotSupported
  /-- Raised by SET_SPEED with `hz = 0` (R120, R121). Safe. -/
  | zeroSpeed
  deriving DecidableEq, Repr

/-- A slot nothing has registered (R20); its other fields are unspecified, zero here (log 8). -/
def Device.blank : Device :=
  { valid := false, maxSpeedHz := 0, cpha := false, cpol := false, csHigh := false, bpw := 0 }

/-- The state of one controller. -/
structure State where
  /-- the parameters of R4, written by nothing (log 1) -/
  cfg : Config
  /-- host memory (20_memory R40, R41) -/
  mem : Memory
  /-- the event trace, oldest first (00_scope R7) -/
  trace : List Event
  /-- the environment's coming answers to GPIO_GET (R8, R92; log 5) -/
  lineScript : List Word
  /-- counts the draws, so that each free value is a fresh one (log 5, log 7) -/
  draws : Nat
  /-- bytes the host wrote, each with a Message that was in flight then (R57; log 7) -/
  raced : List (Word × Word)
  /-- what the agents do next, oldest first (R8; log 4) -/
  agenda : List Action
  /-- the output latch of every line (R11) -/
  gpioOut : Word
  /-- the lines whose direction is `PP` (R11; log 21) -/
  gpioPP : Word
  /-- the lines whose direction is `OD` (R11; log 21) -/
  gpioOD : Word
  /-- SR_TX (R12) -/
  srTx : Word
  /-- SR_RX (R12) -/
  srRx : Word
  /-- HW_CTRL (R12, R77) -/
  hwCtrl : Word
  /-- BITCNT (R12) -/
  bitCnt : BitVec 6
  /-- the mode latch (R13) -/
  latch : Mode
  /-- the sequencer position (R14) -/
  pos : Pos
  /-- the speed state (R16) -/
  speed : Speed
  /-- the chip-select owner between Messages (R17) -/
  heldCs : Option Slot
  /-- the Message in the sequencer (R15) -/
  inflight : Option Entry
  /-- the transfer queue, oldest first (R17) -/
  queue : List Entry
  /-- the worker is scheduled or running (R17) -/
  busy : Bool
  /-- where the worker is, with its local `h'` (R160) -/
  worker : Worker
  /-- where the atomic caller is, with its locals (R8, R164) -/
  caller : Caller
  /-- the RESULT words of SUBMIT_ATOMIC commands past their write-back, oldest first (R164) -/
  answers : List Word
  /-- the result of the last PROCESS_MSG (R139, R162, R164) -/
  seq : SeqResult
  /-- the result of the last GPIO_GET, SHIFT_BYTE, SHIFT_WORD or XFER (R73 to R78; log 18) -/
  ret : Word
  /-- the device table (R20); the slots at and above NDEV are never written -/
  devs : Vector Device 16
  /-- ARG0 (R23) -/
  arg0 : Word
  /-- RESULT (R24) -/
  result : Word
  /-- IRQ_EN.COMP_IE (R32) -/
  compIe : Bool
  /-- the completion FIFO, oldest first (R30) -/
  comp : List CompRec
  /-- what the last register-window read returned (R22; log 9) -/
  busData : Word
  /-- construction failed (R19) -/
  misconfigured : Bool
  deriving DecidableEq, Repr

/-- Reset before construction (R210): every line `IN` with latch 0, every other field at the value of R35
(or of log 8 and log 9 where R35 leaves it unspecified). Host memory, the environment's script and the
agents' agenda are not the block's and are given. -/
def State.powerOn (c : Config) : State where
  cfg := c
  mem := { cells := [] }
  trace := []
  lineScript := []
  draws := 0
  raced := []
  agenda := []
  gpioOut := 0
  gpioPP := 0
  gpioOD := 0
  srTx := 0
  srRx := 0
  hwCtrl := 0
  bitCnt := 0
  latch := { cpol := false, cpha := false }
  pos := { xi := 0, bi := 0, ki := 0 }
  speed := { curHz := none, softDelayNs := 0, divider := none }
  heldCs := none
  inflight := none
  queue := []
  busy := false
  worker := .atStart
  caller := .idle
  answers := []
  seq := { held := none, status := 0, actual := 0 }
  ret := 0
  devs := Vector.replicate 16 Device.blank
  arg0 := 0
  result := 0
  compIe := false
  comp := []
  busData := 0
  misconfigured := !c.gpioMapped

/-- A constructed controller on the platform `c`: the table of R35, with the construction events of R210. -/
def State.constructed (c : Config) : State :=
  if c.gpioMapped then
    { State.powerOn c with
      gpioOut := c.allAuxLow
      gpioPP := c.resetPP
      trace := [.lineSet c.allAuxLow (c.resetLow), .lineDir (c.resetPP) .pushPull,
        .lineDir (bit c.miso) .input] }
  else State.powerOn c

/-- The machine right after reset and construction, on the reference platform (R35, R211; log 1). -/
def State.reset : State := State.constructed Config.reference

end Sys2Proof.Machine
end

