-- ==== Sys2Proof/Machine/Ops.lean ====
section
/-! DEFINITION. The named operations over memory, lines, engine registers and result registers that every
meaning is built from: host memory (spec/20_memory.md R41, R57), the line primitives and the delay
(spec/40_gpio_lines.md R90 to R97), recording an error and returning from one (spec/60_exceptions.md R180,
R195), construction (spec/70_reset_and_hazards.md R210). -/

namespace Sys2Proof.Machine

/-! ### Host memory as data (R40) -/

/-- The byte something has written at `a`, if any. -/
def Memory.read (m : Memory) (a : Nat) : Option Byte :=
  match m.cells.find? (fun cell => cell.1 == a) with
  | some cell => some cell.2
  | none => none

/-- Put a byte into a list of cells, keeping the addresses strictly rising. -/
def insertCell (a : Nat) (b : Byte) : List Host.Cell → List Host.Cell
  | [] => [(a, b)]
  | cell :: rest =>
    if a < cell.1 then (a, b) :: cell :: rest
    else if a = cell.1 then (a, b) :: rest
    else cell :: insertCell a b rest

def Memory.write (m : Memory) (a : Nat) (b : Byte) : Memory := { cells := insertCell a b m.cells }

/-- Every address of the list is above `low` and they rise strictly. -/
def risingAbove : Nat → List Host.Cell → Bool
  | _, [] => true
  | low, cell :: rest => decide (low < cell.1) && risingAbove cell.1 rest

/-- The addresses of a list rise strictly. -/
def rising : List Host.Cell → Bool
  | [] => true
  | cell :: rest => risingAbove cell.1 rest

/-- The canonical form: addresses strictly rising, all inside the 2^32 bytes of R40. An unlisted address
reads as no value, so no entry can equal what it reads as. -/
def Memory.wf (m : Memory) : Bool :=
  rising m.cells && m.cells.all (fun cell => decide (cell.1 < 2 ^ 32))

/-! ### The trace (R7) -/

/-- Append an event to the trace. -/
def emit (e : Event) (s : State) : State := { s with trace := s.trace ++ [e] }

/-! ### Host memory as the block reads and writes it (R41, R57) -/

/-- The host wrote the byte at `a` while the Message now in the sequencer was in flight (R57). -/
def State.isRaced (s : State) (a : Word) : Bool :=
  match s.inflight with
  | some e => s.raced.contains (e.msg, a)
  | none => false

/-- What a read of the byte at `a` returns now: any value when the host raced it (R57, U7), else what was
last written there, else any value (log 6). -/
def State.byteAt (s : State) (a : Word) : Byte :=
  if s.isRaced a then Config.racedByte s.draws a
  else
    match s.mem.read a.toNat with
    | some b => b
    | none => Config.unwrittenByte a

/-- The little-endian word at `a`: `{M[a+3], M[a+2], M[a+1], M[a]}` (R41). -/
def State.wordAt (s : State) (a : Word) : Word :=
  s.byteAt (a + 3) ++ s.byteAt (a + 2) ++ s.byteAt (a + 1) ++ s.byteAt a

/-- `MemRead(a, 1)`: one event; a counted draw (R41, R57). -/
def memRead1 (a : Word) (s : State) : Byte × State :=
  let b := s.byteAt a
  (b, emit (.memRead a 1 (b.setWidth 32)) { s with draws := s.draws + 1 })

/-- `MemRead(a, 4)`: one event; a counted draw (R41, R57). -/
def memRead4 (a : Word) (s : State) : Word × State :=
  let w := s.wordAt a
  (w, emit (.memRead a 4 w) { s with draws := s.draws + 1 })

/-- Store one byte, no event. -/
def storeByte (a : Word) (b : Byte) (s : State) : State := { s with mem := s.mem.write a.toNat b }

/-- `MemWrite(a, 1, v)` (R41). -/
def memWrite1 (a : Word) (b : Byte) (s : State) : State :=
  emit (.memWrite a 1 (b.setWidth 32)) (storeByte a b s)

/-- `MemWrite(a, 4, v)`: little-endian (R41). -/
def memWrite4 (a : Word) (v : Word) (s : State) : State :=
  emit (.memWrite a 4 v)
    (storeByte (a + 3) (v.extractLsb' 24 8)
      (storeByte (a + 2) (v.extractLsb' 16 8)
        (storeByte (a + 1) (v.extractLsb' 8 8)
          (storeByte a (v.extractLsb' 0 8) s))))

/-! ### Lines (R90 to R97) -/

/-- Reading the lines' register back: its value, and the state as it was (R59). -/
def readBack (s : State) : Word × State := (s.gpioOut, s)

/-- The read-back of a platform that needs one: the value is used by nobody and is no event (R59, R90). -/
def flushLines (s : State) : State := if s.cfg.flushOnSet then (readBack s).2 else s

/-- GPIO_SET on legal masks: one indivisible update, one event (R90). -/
def lineSet (high low : Word) (s : State) : State :=
  flushLines (emit (.lineSet high low) { s with gpioOut := (s.gpioOut ||| high) &&& ~~~low })

/-- The environment's answer, or a draw once its script is used up (R92, R93; log 5). -/
def State.lineAnswer (s : State) : Word :=
  (match s.lineScript with
    | w :: _ => w
    | [] => Config.freeLines s.draws) &&& s.cfg.lineMask

/-- The answer is consumed and the draw counted (R49: two reads may differ). -/
def consumeAnswer (s : State) : State :=
  { s with lineScript := s.lineScript.tail, draws := s.draws + 1 }

/-- GPIO_GET: sample every line, one event (R92). -/
def lineGet (s : State) : Word × State :=
  let m := s.lineAnswer
  (m, emit (.lineGet m) (consumeAnswer s))

/-- GPIO_DIR on a legal mask and direction: the latch is not changed, one event (R94). -/
def lineDir (mask : Word) (dir : LineDir) (s : State) : State :=
  emit (.lineDir mask dir)
    (match dir with
      | .input => { s with gpioPP := s.gpioPP &&& ~~~mask, gpioOD := s.gpioOD &&& ~~~mask }
      | .pushPull => { s with gpioPP := s.gpioPP ||| mask, gpioOD := s.gpioOD &&& ~~~mask }
      | .openDrain => { s with gpioPP := s.gpioPP &&& ~~~mask, gpioOD := s.gpioOD ||| mask })

/-- `gpio_dir[n]` (R11). -/
def State.dirOf (s : State) (n : Nat) : LineDir :=
  if s.gpioOD.getLsbD n then .openDrain else if s.gpioPP.getLsbD n then .pushPull else .input

/-- What the block drives on the pin of line `n`: its latch when push-pull, low or released when
open-drain, nothing when input (R90 *Pins*; PRESUMED for open-drain, log 20). -/
def State.pinDrive (s : State) (n : Nat) : Option Bool :=
  match s.dirOf n with
  | .input => none
  | .pushPull => some (s.gpioOut.getLsbD n)
  | .openDrain => if s.gpioOut.getLsbD n then none else some false

/-- DELAY: an event carrying a lower bound; 0 appends nothing (R96). -/
def waitNs (ns : Word) (s : State) : State := if ns = 0 then s else emit (.delay ns) s

/-- One line driven to a level by one GPIO_SET (R97). -/
def lineTo (n : Nat) (v : Bool) (s : State) : State :=
  lineSet (if v then bit n else 0) (if v then 0 else bit n) s

/-- `SckTo(v)`, `MosiTo(v)`, `CsTo(i, v)` (R97). -/
def sckTo (v : Bool) (s : State) : State := lineTo s.cfg.sck v s

def mosiTo (v : Bool) (s : State) : State := lineTo s.cfg.mosi v s

def csTo (d : Slot) (v : Bool) (s : State) : State := lineTo (s.cfg.slot d).cs v s

/-- `SR_RX <- (SR_RX << 1) | Miso()` (R97, R102). -/
def sampleMiso (s : State) : State :=
  let r := lineGet s
  { r.2 with srRx := (s.srRx <<< 1) ||| (BitVec.ofBool (r.1.getLsbD s.cfg.miso)).setWidth 32 }

/-! ### The device table (R20) -/

def State.dev (s : State) (d : Slot) : Device := s.devs[d.toNat]'(by omega)

def setDev (d : Slot) (v : Device) (s : State) : State :=
  { s with devs := s.devs.set d.toNat v (by omega) }

/-! ### Bytes written in flight (R57) -/

/-- The Message `m` is completed: the marks of the bytes the host wrote while it was in flight go, unless the host
has queued the same descriptor again. -/
def dropMarks (m : Word) (s : State) : State :=
  { s with raced := s.raced.filter (fun e => e.1 != m || (s.queue.map Entry.msg).contains m) }

/-! ### Errors: recording one, and the host's return from a completion (R180, R193, R195) -/

/-- The error taxonomy (R180). -/
inductive ErrorKind where
  | transferSizeMismatch
  | busMisconfigured
  | unsupportedMode
  | queueAtomicHazard
  deriving DecidableEq, Repr

/-- The status codes (R180, D8). -/
def ErrorKind.code : ErrorKind → Word
  | .transferSizeMismatch => 1
  | .busMisconfigured => 2
  | .unsupportedMode => 3
  | .queueAtomicHazard => 4

/-- RESULT of a command that ends with a status code: 0 for success, else `ERR` and the code (R24). -/
def resultOf (status : Word) : Word := if status = 0 then 0 else 0x80000000 ||| status

/-- Write RESULT (R24). -/
def setResult (w : Word) (s : State) : State := { s with result := w }

/-- `raise E` for an error recorded in RESULT: nothing else changes and nothing is transferred to a
handler (R180, R193). -/
def raiseInResult (e : ErrorKind) (s : State) : State := setResult (resultOf e.code) s

/-- The host's return from a completion: COMP_POP removes the head record, or does nothing (R31, R195). -/
def popCompletion (s : State) : State := { s with comp := s.comp.tail }

/-! ### Engine registers and the sequencer position (R12, R14) -/

def setXi (n : Nat) (s : State) : State := { s with pos := { s.pos with xi := n } }

def setBi (n : Nat) (s : State) : State := { s with pos := { s.pos with bi := n } }

/-- Load the engine for a unit of `count` bits (R102, R106). -/
def loadUnit (tx : Word) (count : BitVec 6) (s : State) : State :=
  { s with srTx := tx, srRx := 0, bitCnt := count, pos := { s.pos with ki := 0 } }

/-- One bit is through: BITCNT counts down, `pos.ki` up (R14, R102). -/
def countBit (s : State) : State :=
  { s with bitCnt := s.bitCnt - 1, pos := { s.pos with ki := s.pos.ki + 1 } }

/-- The unit is done: `pos.ki` returns to 0 (R14). -/
def endUnit (s : State) : State := { s with pos := { s.pos with ki := 0 } }

/-! ### Outcomes -/

/-- The outcome of an operation that either has no meaning on its input or reaches a next state. -/
def outcome : Except Refusal State → Host.Outcome State Fault Refusal
  | .ok s => .next s
  | .error r => .refused r

/-- An operation with a condition the spec puts on its operands. -/
def guarded (check : Except Refusal Unit) (s : State) : Host.Outcome State Fault Refusal :=
  match check with
  | .ok () => .next s
  | .error r => .refused r

/-! ### Construction (R210) -/

/-- The construction sequence: the three micro-operations of R210, or none when the GPIO mapping failed. -/
def construction (s : State) : State :=
  if s.cfg.gpioMapped then
    lineDir (bit s.cfg.miso) .input
      (lineDir s.cfg.resetPP .pushPull (lineSet s.cfg.allAuxLow s.cfg.resetLow s))
  else s

/-- Reset with work outstanding (R212): everything of the block is discarded and constructed anew; host
memory, the environment, the agenda, the draw counter and the trace go on. -/
def resetNow (s : State) : State :=
  construction
    { State.powerOn s.cfg with
      mem := s.mem, trace := s.trace, lineScript := s.lineScript, draws := s.draws, agenda := s.agenda }

/-! ### Reset in the middle of an operation (R212) -/

/-- Host memory after an event: only a MemWrite stores (R41). -/
def replayEvent (m : Memory) : Event → Memory
  | .memWrite a n v =>
    if n = 4 then
      (((m.write a.toNat (v.extractLsb' 0 8)).write (a + 1).toNat (v.extractLsb' 8 8)).write
        (a + 2).toNat (v.extractLsb' 16 8)).write (a + 3).toNat (v.extractLsb' 24 8)
    else m.write a.toNat (v.extractLsb' 0 8)
  | _ => m

/-- The event used up an answer of the environment. -/
def isLineGet : Event → Bool
  | .lineGet _ => true
  | _ => false

/-- The event counted a draw. -/
def isDraw : Event → Bool
  | .lineGet _ => true
  | .memRead .. => true
  | _ => false

/-- Reset asserted after the first `n` of the events that lead from `s` to `t`: what those events stored and used
up stands, the rest of the move never happened (R212). -/
def resetWithin (n : Nat) (s t : State) : State :=
  let done := (t.trace.drop s.trace.length).take n
  resetNow { s with
    mem := done.foldl replayEvent s.mem
    trace := s.trace ++ done
    lineScript := s.lineScript.drop (done.countP isLineGet)
    draws := s.draws + done.countP isDraw }

end Sys2Proof.Machine
end

