-- ==== Sys2Proof/Machine/Operands.lean ====
section
/-! DEFINITION. The operand forms: slots and masks (spec/30_encoding.md R81), message and transfer
descriptors (spec/20_memory.md R43 to R48), the effective speed (spec/42_speed_calculator.md R124), the
fast-path test and the packing of its words (spec/41_bit_engine.md R107, R108), which Messages are in flight
(R57). -/

namespace Sys2Proof.Machine

/-! ### Slots and directions -/

/-- A slot an operation may name: it exists and is registered (R136, R137, R139, R157). -/
def slotReady (d : Slot) (s : State) : Except Refusal Unit :=
  if s.cfg.hasSlot d then (if (s.dev d).valid then .ok () else .error .slotNotRegistered)
  else .error .noSuchSlot

/-- `direction` of GPIO_DIR: 0 input, 1 push-pull, 2 open-drain, 3 reserved (R73). -/
def dirOperand (direction : BitVec 2) : Option LineDir :=
  if direction = 0 then some .input
  else if direction = 1 then some .pushPull
  else if direction = 2 then some .openDrain
  else none

/-! ### Descriptors (R43 to R48) -/

/-- The `n` bytes at `a` stay below 2^32 and do not overlap the register window (R48). -/
def rangeOk (c : Config) (a : Word) (n : Nat) : Bool :=
  decide (a.toNat + n ≤ 2 ^ 32)
    && (decide (n = 0)
      || decide (a.toNat + n ≤ c.windowBase.toNat)
      || decide (c.windowBase.toNat + c.windowSize ≤ a.toNat))

/-- A message descriptor: 24 bytes at a nonzero multiple of 4 (R43, R44, R48). -/
def messageOk (c : Config) (m : Word) : Except Refusal Unit :=
  if descriptorAddress m then (if rangeOk c m 24 then .ok () else .error .malformedDescriptor)
  else .error .badDescriptorAddress

/-- The transfer descriptors of a Message with `cnt > 0`: 20 bytes each from `ptr`, below 2^32 (R44, R48). That
none overlaps the register window is asked of each when it is reached (R192 e). -/
def transfersOk (ptr : Word) (cnt : Nat) : Bool :=
  descriptorAddress ptr && decide (ptr.toNat + 20 * cnt ≤ 2 ^ 32)

/-- The fields of a transfer descriptor at `addr` (R45); `flags` is kept whole. -/
structure Transfer where
  addr : Word
  txPtr : Word
  rxPtr : Word
  len : Word
  speedHz : Word
  flags : Word
  deriving DecidableEq, Repr

/-- Flag bit 0 (R45). -/
def Transfer.csChange (t : Transfer) : Bool := t.flags.getLsbD 0

/-- Flag bit 1 (R45). -/
def Transfer.verify (t : Transfer) : Bool := t.flags.getLsbD 1

/-- A present buffer lies inside host memory and outside the window (R43, R48). -/
def bufferOk (c : Config) (ptr len : Word) : Bool := decide (ptr = 0) || rangeOk c ptr len.toNat

/-- What R48 asks of a transfer descriptor's contents. -/
def Transfer.ok (c : Config) (t : Transfer) : Bool :=
  decide (t.flags.extractLsb' 2 30 = 0)
    && (!t.verify || decide (t.rxPtr ≠ 0))
    && bufferOk c t.txPtr t.len
    && bufferOk c t.rxPtr t.len

/-- Read the five words of a transfer descriptor, in ascending order (R58, R139). -/
def readTransfer (a : Word) (s : State) : Transfer × State :=
  let tx := memRead4 a s
  let rx := memRead4 (a + 4) tx.2
  let len := memRead4 (a + 8) rx.2
  let hz := memRead4 (a + 12) len.2
  let fl := memRead4 (a + 16) hz.2
  ({ addr := a, txPtr := tx.1, rxPtr := rx.1, len := len.1, speedHz := hz.1, flags := fl.1 }, fl.2)

/-- The same fields as they stand in memory, no event: what XFER alone is given (R110; log 17). -/
def transferAt (a : Word) (s : State) : Transfer :=
  { addr := a, txPtr := s.wordAt a, rxPtr := s.wordAt (a + 4), len := s.wordAt (a + 8)
    speedHz := s.wordAt (a + 12), flags := s.wordAt (a + 16) }

/-- `eff_hz(d, t)`: the override when it is not 0, else the Device's default (R124). -/
def effHz (d : Slot) (t : Transfer) (s : State) : Word :=
  if t.speedHz = 0 then (s.dev d).maxSpeedHz else t.speedHz

/-- `fast_ok(d, t)` (R107). -/
def fastOk (d : Slot) (t : Transfer) (s : State) : Bool :=
  decide (s.cfg.engine = .hwShift)
    && decide (4 ≤ t.len.toNat)
    && decide (t.txPtr.toNat % 4 = 0)
    && decide (t.rxPtr.toNat % 4 = 0)
    && !(s.cfg.slot d).slow
    && s.speed.divider.isSome
    && !t.verify
    && !s.latch.cpha

/-- The word of a fast-path chunk: lowest-addressed byte in bits 31:24 (R46, R108). -/
def packWord (b0 b1 b2 b3 : Byte) : Word := b0 ++ b1 ++ b2 ++ b3

/-! ### Messages in flight (R57) -/

/-- The Messages in flight, "from submission until completion callback invocation" (R57): the queue, and the
Message in the sequencer unless its completion has been raised and only the write-back is owed. -/
def State.inFlight (s : State) : List Word :=
  s.queue.map Entry.msg ++
    (match s.inflight, s.worker with
      | some _, .owes _ => []
      | some e, _ => [e.msg]
      | none, _ => [])

end Sys2Proof.Machine
end

