-- ==== Sys2Proof/Machine/Flags.lean ====
section
/-! DEFINITION. The flags (spec/10_state.md R18) and the read-only views a host reads them through: STATUS
(R25), the speed registers (R26), the line registers (R27), the completion head (R30), the device registers
(R33), and the interrupt output (spec/60_exceptions.md R190). -/

namespace Sys2Proof.Machine

/-- One flag at bit `n` of a register. -/
def flagAt (n : Nat) (b : Bool) : Word := if b then bit n else 0

/-- STATUS (R25). -/
def statusReg (s : State) : Word :=
  flagAt 0 s.busy ||| flagAt 1 s.heldCs.isSome
    ||| ((s.heldCs.getD 0).setWidth 32 <<< 4)
    ||| flagAt 8 s.inflight.isSome ||| flagAt 9 (!s.queue.isEmpty) ||| flagAt 10 (!s.comp.isEmpty)
    ||| flagAt 31 s.misconfigured

/-- CUR_HZ (R26). -/
def curHzReg (s : State) : Word := s.speed.curHz.getD 0

/-- CUR_DIV (R26). -/
def curDivReg (s : State) : Word :=
  match s.speed.divider with
  | some d => bit 31 ||| d.setWidth 32
  | none => 0

/-- GPIO_DIR (R27): the lines that are `PP` or `OD`. -/
def gpioDirReg (s : State) : Word := s.gpioPP ||| s.gpioOD

/-- The five words of the head completion record, all 0 when the FIFO is empty (R30). -/
def compHead (s : State) : CompRec :=
  s.comp.head?.getD { msg := 0, callback := 0, context := 0, status := 0, actualLength := 0 }

/-- DEV_CFG[i] (R33). -/
def devCfgReg (v : Device) : Word :=
  if v.valid then
    bit 31 ||| (v.bpw.setWidth 32 <<< 8) ||| flagAt 2 v.csHigh ||| flagAt 1 v.cpol ||| flagAt 0 v.cpha
  else 0

/-- DEV_HZ[i] (R33). -/
def devHzReg (v : Device) : Word := if v.valid then v.maxSpeedHz else 0

/-- The interrupt output: `COMP_IE and (comp != [])` (R32, R190). -/
def irq (s : State) : Bool := s.compIe && !s.comp.isEmpty

/-- The slot a register offset belongs to, when it is a DEV_CFG (`false`) or DEV_HZ (`true`) of an existing
slot: offsets `0x80 + 8*i` and `0x84 + 8*i` (R22). -/
def deviceOffset (c : Config) (off : Nat) : Option (Slot × Bool) :=
  if 0x80 ≤ off ∧ off < 0x80 + 8 * c.ndev then
    if off % 8 = 0 then some (BitVec.ofNat 4 ((off - 0x80) / 8), false)
    else if off % 8 = 4 then some (BitVec.ofNat 4 ((off - 0x80) / 8), true)
    else none
  else none

/-- What a read at offset `off` of the register window returns, GPIO_IN apart (R22): write-only registers
and offsets not listed read 0. -/
def regValue (s : State) (off : Nat) : Word :=
  if off = 0x04 then s.arg0
  else if off = 0x0C then s.result
  else if off = 0x10 then statusReg s
  else if off = 0x14 then curHzReg s
  else if off = 0x18 then s.speed.softDelayNs
  else if off = 0x1C then curDivReg s
  else if off = 0x20 then s.gpioOut
  else if off = 0x24 then s.lineAnswer
  else if off = 0x28 then gpioDirReg s
  else if off = 0x2C then s.gpioOD
  else if off = 0x30 then (compHead s).msg
  else if off = 0x34 then (compHead s).callback
  else if off = 0x38 then (compHead s).context
  else if off = 0x3C then (compHead s).status
  else if off = 0x40 then (compHead s).actualLength
  else if off = 0x48 then flagAt 0 s.compIe
  else
    match deviceOffset s.cfg off with
    | some (d, false) => devCfgReg (s.dev d)
    | some (d, true) => devHzReg (s.dev d)
    | none => 0

end Sys2Proof.Machine
end

