-- ==== Sys2Proof/Machine/Engine.lean ====
section
/-! DEFINITION. The bit-level transfer engine: SHIFT_BYTE, SHIFT_WORD, XFER (spec/41_bit_engine.md). -/

namespace Sys2Proof.Machine

/-! ### One bit -/

/-- `if want_rx: SR_RX <- (SR_RX << 1) | Miso()` (R102, R103). -/
def sampleIf (wantRx : Bool) (s : State) : State := if wantRx then sampleMiso s else s

/-- `Delay(soft_delay_ns)` (R102, R103). -/
def halfBit (s : State) : State := waitNs s.speed.softDelayNs s

/-- One bit with CPHA = 0: MOSI, half period, active edge, half period, sample, idle (R102). -/
def bitPhase0 (wantRx cpol b : Bool) (s : State) : State :=
  countBit (sckTo cpol (sampleIf wantRx (halfBit (sckTo (!cpol) (halfBit (mosiTo b s))))))

/-- One bit with CPHA = 1: leading edge, MOSI, half period, trailing edge, half period, sample (R103;
PRESUMED, the spec's own passage from general knowledge, log 13). -/
def bitPhase1 (wantRx cpol b : Bool) (s : State) : State :=
  countBit (sampleIf wantRx (halfBit (sckTo cpol (halfBit (mosiTo b (sckTo (!cpol) s))))))

/-- One bit of the shift-register peripheral: the sequence of R102 without the delays, MISO sampled for
every bit (R106). -/
def bitHw (cpol b : Bool) (s : State) : State :=
  countBit (sckTo cpol (sampleMiso (sckTo (!cpol) (mosiTo b s))))

/-- Shift bits `n-1` down to 0 of SR_TX, most significant first (R101, R102, R106). -/
def shiftBits (one : Bool → State → State) : Nat → State → State
  | 0, s => s
  | k + 1, s => shiftBits one k (one (s.srTx.getLsbD k) s)

/-! ### One unit -/

/-- SHIFT_BYTE: 8 bits; `SR_TX[7:0] <- tx`, the other bits of SR_TX stay (R102, R103; R104 for the result). -/
def shiftByte (cpha cpol wantRx : Bool) (tx : Byte) (s : State) : Byte × State :=
  let loaded := loadUnit ((s.srTx &&& 0xFFFFFF00) ||| tx.setWidth 32) 8 s
  let one := if cpha then bitPhase1 wantRx cpol else bitPhase0 wantRx cpol
  let done := endUnit (shiftBits one 8 loaded)
  (if wantRx then done.srRx.setWidth 8 else 0, done)

/-- SHIFT_WORD: the command word goes to HW_CTRL, then `count` bits by the peripheral (R106, R77). -/
def shiftWord (cs : Slot) (cpol : Bool) (count : BitVec 6) (tx : Word) (s : State) : Word × State :=
  let loaded := loadUnit tx count { s with hwCtrl := (encode (.shiftWord cs cpol count tx)).header }
  let done := endUnit (shiftBits (bitHw cpol) count.toNat loaded)
  (done.srRx, done)

/-! ### One Transfer (R110) -/

/-- The tx byte at offset `n`: from the buffer, or 0x00 when there is none. -/
def txByte (t : Transfer) (n : Nat) (s : State) : Byte × State :=
  if t.txPtr = 0 then (0, s) else memRead1 (t.txPtr + BitVec.ofNat 32 n) s

/-- The word of the chunk at offset `n`, from four byte reads in address order (R46, R108). -/
def txWord (t : Transfer) (n : Nat) (s : State) : Word × State :=
  if t.txPtr = 0 then (0, s)
  else
    let b0 := memRead1 (t.txPtr + BitVec.ofNat 32 n) s
    let b1 := memRead1 (t.txPtr + BitVec.ofNat 32 (n + 1)) b0.2
    let b2 := memRead1 (t.txPtr + BitVec.ofNat 32 (n + 2)) b1.2
    let b3 := memRead1 (t.txPtr + BitVec.ofNat 32 (n + 3)) b2.2
    (packWord b0.1 b1.1 b2.1 b3.1, b3.2)

/-- Store the received word of the chunk at offset `n`, byte by byte (R108). -/
def rxWord (t : Transfer) (n : Nat) (r : Word) (s : State) : State :=
  if t.rxPtr = 0 then s
  else
    memWrite1 (t.rxPtr + BitVec.ofNat 32 (n + 3)) (r.extractLsb' 0 8)
      (memWrite1 (t.rxPtr + BitVec.ofNat 32 (n + 2)) (r.extractLsb' 8 8)
        (memWrite1 (t.rxPtr + BitVec.ofNat 32 (n + 1)) (r.extractLsb' 16 8)
          (memWrite1 (t.rxPtr + BitVec.ofNat 32 n) (r.extractLsb' 24 8) s)))

/-- Where a loop of XFER stopped: the count, and whether the Transfer ended there. -/
structure Progress where
  n : Nat
  ended : Bool
  state : State
  deriving DecidableEq, Repr

/-- The fast path: `k` chunks from offset `n` (R108, R110). After each SHIFT_WORD the fault oracle of U10 is
consulted; where it is true XFER returns `n` at once (log 15). -/
def fastLoop (d : Slot) (t : Transfer) : Nat → Nat → State → Progress
  | 0, n, s => { n := n, ended := false, state := s }
  | k + 1, n, s =>
    let w := txWord t n (setBi n s)
    let r := shiftWord d s.latch.cpol 32 w.1 w.2
    if s.cfg.hwFaults.contains (d, t.addr, n) then { n := n, ended := true, state := r.2 }
    else fastLoop d t k (n + 4) (rxWord t n r.1 r.2)

/-- The byte loop: `k` bytes from offset `n` (R110), with the verify short-circuit (R111). -/
def byteLoop (t : Transfer) : Nat → Nat → State → Progress
  | 0, n, s => { n := n, ended := false, state := s }
  | k + 1, n, s =>
    let b := txByte t n (setBi n s)
    let wantRx := decide (t.rxPtr ≠ 0)
    let r := shiftByte s.latch.cpha s.latch.cpol wantRx b.1 b.2
    if t.verify then
      let e := memRead1 (t.rxPtr + BitVec.ofNat 32 n) r.2
      if r.1 = e.1 then byteLoop t k (n + 1) e.2 else { n := n, ended := true, state := e.2 }
    else if wantRx then byteLoop t k (n + 1) (memWrite1 (t.rxPtr + BitVec.ofNat 32 n) r.1 r.2)
    else byteLoop t k (n + 1) r.2

/-- The whole chunks of an eligible Transfer, none of any other (R107, R108). -/
def fastPart (d : Slot) (t : Transfer) (s : State) : Progress :=
  if fastOk d t s then fastLoop d t (t.len.toNat / 4) 0 s else { n := 0, ended := false, state := s }

/-- The bytes left over after `p`, unless the Transfer ended there (R108, R110). -/
def bytePart (t : Transfer) (p : Progress) : Progress :=
  if p.ended then p else byteLoop t (t.len.toNat - p.n) p.n p.state

/-- XFER: fast path for whole chunks when eligible, then the byte loop; `pos.bi` returns to 0 (R110, R14). -/
def xfer (d : Slot) (t : Transfer) (s : State) : Word × State :=
  let done := bytePart t (fastPart d t s)
  (BitVec.ofNat 32 done.n, setBi 0 done.state)

/-- A shift with CPHA = 1 has a meaning only where the engine supports it (R103). -/
def phaseOk (cpha : Bool) (s : State) : Except Refusal Unit :=
  if cpha && !s.cfg.cpha1Supported then .error .phaseNotSupported else .ok ()

/-- XFER with the mode the latch holds. -/
def xferChecked (d : Slot) (t : Transfer) (s : State) : Except Refusal (Word × State) :=
  match phaseOk s.latch.cpha s with
  | .ok () => .ok (xfer d t s)
  | .error r => .error r

/-! ### The meanings -/

/-- SHIFT_BYTE: the byte is the operation's result (R75, R102, R103). -/
def execShiftByte (cpha cpol wantRx : Bool) (tx : Byte) (s : State) : Host.Outcome State Fault Refusal :=
  match phaseOk cpha s with
  | .error r => .refused r
  | .ok () =>
    let r := shiftByte cpha cpol wantRx tx s
    .next { r.2 with ret := r.1.setWidth 32 }

/-- SHIFT_WORD: present only when `ENGINE = HwShift`; the word is the operation's result (R77, R81, R106). -/
def execShiftWord (cs : Slot) (cpol : Bool) (count : BitVec 6) (tx : Word) (s : State) :
    Host.Outcome State Fault Refusal :=
  if s.cfg.engine ≠ .hwShift then .refused .noShiftRegister
  else if !s.cfg.hasSlot cs then .refused .noSuchSlot
  else if count.toNat = 0 ∨ 32 < count.toNat then .refused .reservedCount
  else
    let r := shiftWord cs cpol count tx s
    .next { r.2 with ret := r.1 }

/-- XFER alone: the descriptor's fields as they stand (log 17), refused where R43 or R48 refuses them; the
count is the operation's result (R78, R110). -/
def execXfer (dev : Slot) (desc : Word) (s : State) : Host.Outcome State Fault Refusal :=
  if !s.cfg.hasSlot dev then .refused .noSuchSlot
  else if !descriptorAddress desc then .refused .badDescriptorAddress
  else if !(rangeOk s.cfg desc 20 && (transferAt desc s).ok s.cfg) then .refused .malformedDescriptor
  else
    match xferChecked dev (transferAt desc s) s with
    | .error r => .refused r
    | .ok r => .next { r.2 with ret := r.1 }

end Sys2Proof.Machine
end

