-- ==== Sys2Proof/Machine/Speed.lean ====
section
/-! DEFINITION. SET_SPEED and its arithmetic (spec/42_speed_calculator.md). -/

namespace Sys2Proof.Machine

/-- Try the `n` dividers from `d` up: the first whose frequency is not above `hz` (R122). -/
def firstDivider (c : Config) (hz : Word) : Nat → BitVec 16 → Option (BitVec 16)
  | 0, _ => none
  | n + 1, d => if c.divFreq d ≤ hz.toNat then some d else firstDivider c hz n (d + 1)

/-- `select_divider(hz)` (R122). -/
def selectDivider (c : Config) (hz : Word) : Option (BitVec 16) :=
  if c.hasDivider then firstDivider c hz (c.divMax.toNat - c.divMin.toNat + 1) c.divMin else none

/-- The half period `floor(10^9 / (2*hz))` in exact naturals (R123, R125 a). -/
def halfPeriod (hz : Word) : Nat := 1000000000 / (2 * hz.toNat)

/-- `soft_delay(hz)` (R123). -/
def softDelay (c : Config) (hz : Word) : Word :=
  if halfPeriod hz ≤ c.fixedOverheadNs.toNat then 0
  else BitVec.ofNat 32 (halfPeriod hz - c.fixedOverheadNs.toNat)

/-- The speed state for a request (R121). -/
def speedFor (c : Config) (hz : Word) : Speed :=
  { curHz := some hz, softDelayNs := softDelay c hz, divider := selectDivider c hz }

/-- SET_SPEED on `hz >= 1`: the three fields of R16 and nothing else, no event (R121). -/
def setSpeed (hz : Word) (s : State) : State := { s with speed := speedFor s.cfg hz }

/-- SET_SPEED with its `require hz >= 1` (R120, R121). -/
def setSpeedChecked (hz : Word) (s : State) : Except Refusal State :=
  if hz = 0 then .error .zeroSpeed else .ok (setSpeed hz s)

/-- Apply a Transfer's effective speed when it differs from the last one applied (R124, R139). -/
def applySpeed (hz : Word) (s : State) : Except Refusal State :=
  if s.speed.curHz = some hz then .ok s else setSpeedChecked hz s

/-- SET_SPEED. -/
def execSetSpeed (hz : Word) (s : State) : Host.Outcome State Fault Refusal :=
  outcome (setSpeedChecked hz s)

end Sys2Proof.Machine
end

