-- ==== Sys2Proof/Machine/Sequencer.lean ====
section
/-! DEFINITION. The chip-select / message sequencer: CS_ASSERT, CS_DEASSERT, PROCESS_MSG
(spec/43_cs_sequencer.md). -/

namespace Sys2Proof.Machine

/-! ### Select and deselect -/

/-- The slot's setup hook, one GPIO_SET when it has one (R136). -/
def setupHook (d : Slot) (s : State) : State :=
  let p := s.cfg.slot d
  if p.auxHigh ||| p.auxLow = 0 then s else lineSet p.auxHigh p.auxLow s

/-- The slot's teardown hook: the setup undone, then the strobe pulse, each when the slot has it (R137). -/
def teardownHook (d : Slot) (s : State) : State :=
  let p := s.cfg.slot d
  let undone := if p.auxHigh ||| p.auxLow = 0 then s else lineSet p.auxLow p.auxHigh s
  if p.strobe = 0 then undone else lineSet 0 p.strobe (lineSet p.strobe 0 undone)

/-- CS_ASSERT: mode latch, SCK to the device's idle level, select, setup (R136). -/
def csAssert (d : Slot) (s : State) : State :=
  let v := s.dev d
  let latched := { s with latch := { cpol := v.cpol, cpha := v.cpha } }
  setupHook d (csTo d v.csHigh (sckTo v.cpol latched))

/-- CS_DEASSERT: deselect, teardown (R137). -/
def csDeassert (d : Slot) (s : State) : State := teardownHook d (csTo d (!(s.dev d).csHigh) s)

/-- Release whatever chip-select `h` names (R138, R142, R165). -/
def releaseHeld (h : Option Slot) (s : State) : State :=
  match h with
  | some e => csDeassert e s
  | none => s

/-! ### PROCESS_MSG (R139) -/

/-- `terminate = cs_change ? !is_last : is_last` (R141). -/
def terminates (csChange isLast : Bool) : Bool := if csChange then !isLast else isLast

/-- Everything of one Transfer up to and with XFER: read the descriptor, refuse a malformed one (R48, R192 e),
assert the select if it is not asserted, apply the speed, transfer (R139). The result is the descriptor, the
count moved and the state. -/
def runTransfer (d : Slot) (a : Word) (asserted : Bool) (s : State) :
    Except Refusal (Transfer × Word × State) :=
  let r := readTransfer a s
  if rangeOk s.cfg a 20 && r.1.ok s.cfg then
    let selected := if asserted then r.2 else csAssert d r.2
    match applySpeed (effHz d r.1 selected) selected with
    | .error e => .error e
    | .ok timed =>
      match xferChecked d r.1 timed with
      | .error e => .error e
      | .ok x => .ok (r.1, x.1, x.2)
  else .error .malformedDescriptor

/-- The Transfers of a Message, strictly in order: `left` of them from index `xi` (R139). A short one aborts
the Message (R140); the end-of-Transfer decision is R141; the returned state is R143. -/
def runTransfers (d : Slot) (ptr : Word) :
    (left xi : Nat) → (asserted : Bool) → (actual : Word) → State → Except Refusal (SeqResult × State)
  | 0, _, asserted, actual, s =>
    .ok ({ held := if asserted then some d else none, status := 0, actual := actual }, s)
  | left + 1, xi, asserted, actual, s =>
    match runTransfer d (ptr + BitVec.ofNat 32 (20 * xi)) asserted (setXi xi s) with
    | .error e => .error e
    | .ok (t, got, s') =>
      if got ≠ t.len then
        .ok ({ held := none, status := ErrorKind.transferSizeMismatch.code, actual := actual + got },
          csDeassert d s')
      else if terminates t.csChange (decide (left = 0)) then
        runTransfers d ptr left (xi + 1) false (actual + got) (csDeassert d s')
      else runTransfers d ptr left (xi + 1) true (actual + got) s'

/-- The zero-Transfer Message releases whatever is held (R138); any other first releases another device's
held select (R142), then runs its Transfers. -/
def runMessage (d : Slot) (ptr : Word) (cnt : Nat) (h : Option Slot) (s : State) :
    Except Refusal (SeqResult × State) :=
  if cnt = 0 then .ok ({ held := none, status := 0, actual := 0 }, releaseHeld h s)
  else if !transfersOk ptr cnt then .error .malformedDescriptor
  else if h = some d then runTransfers d ptr cnt 0 true 0 s
  else runTransfers d ptr cnt 0 false 0 (releaseHeld h s)

/-- The result fields of the Message: `status`, then `actual_length` (R56, R139). -/
def writeResults (m : Word) (r : SeqResult) (s : State) : State :=
  { memWrite4 (m + 0x14) r.actual (memWrite4 (m + 0x10) r.status s) with seq := r }

/-- PROCESS_MSG(m, d) with the held state `h`: the result is in `seq` (R139). `pos.xi` is written when a Transfer is
reached, so a Message without Transfers leaves the position as it was (R14 gives no starting value: DESIGN CHOICE,
log 29). -/
def processMsg (d : Slot) (m : Word) (h : Option Slot) (s : State) : Except Refusal State :=
  match slotReady d s, messageOk s.cfg m with
  | .error e, _ => .error e
  | _, .error e => .error e
  | .ok (), .ok () =>
    let ptr := memRead4 m s
    let cnt := memRead4 (m + 4) ptr.2
    match runMessage d ptr.1 cnt.1.toNat h cnt.2 with
    | .error e => .error e
    | .ok (r, s') => .ok (writeResults m r s')

/-! ### The meanings -/

/-- CS_ASSERT on a valid slot (R136). -/
def execCsAssert (dev : Slot) (s : State) : Host.Outcome State Fault Refusal :=
  guarded (slotReady dev s) (csAssert dev s)

/-- CS_DEASSERT on a valid slot (R137). -/
def execCsDeassert (dev : Slot) (s : State) : Host.Outcome State Fault Refusal :=
  guarded (slotReady dev s) (csDeassert dev s)

/-- PROCESS_MSG with the held state of the controller; `held_cs` is written by the caller, not here (R139). -/
def execProcessMsg (dev : Slot) (msg : Word) (s : State) : Host.Outcome State Fault Refusal :=
  outcome (processMsg dev msg s.heldCs s)

end Sys2Proof.Machine
end

