-- ==== Sys2Proof/Machine/Dispatcher.lean ====
section
/-! DEFINITION. The queue, the worker and the host commands: REGDEV, SUBMIT, SUBMIT_ATOMIC, WORKER_STEP,
COMPLETE (spec/44_queue_dispatcher.md). -/

namespace Sys2Proof.Machine

/-! ### REGDEV (R155, R156) -/

/-- The condition of UnsupportedMode (R155, R182). -/
def modeUnsupported (c : Config) (mode bpw : Byte) (hz : Word) : Bool :=
  decide (mode.extractLsb' 3 5 ≠ 0) || (mode.getLsbD 0 && !c.cpha1Supported)
    || decide (bpw ≠ 8) || decide (hz = 0)

/-- The slot REGDEV writes (R155). -/
def registered (mode : Byte) (hz : Word) : Device :=
  { valid := true, maxSpeedHz := hz, cpha := mode.getLsbD 0, cpol := mode.getLsbD 1
    csHigh := mode.getLsbD 2, bpw := 8 }

/-- The effect of an accepted REGDEV: the slot, the inactive level, the direction, the handle (R155). -/
def registerDevice (d : Slot) (mode : Byte) (hz : Word) (s : State) : State :=
  setResult (d.setWidth 32)
    (lineDir (bit (s.cfg.slot d).cs) .pushPull
      (csTo d (!mode.getLsbD 2) (setDev d (registered mode hz) s)))

/-- REGDEV (R155). -/
def execRegdev (dev : Slot) (bpw mode : Byte) (hz : Word) (s : State) : Host.Outcome State Fault Refusal :=
  if s.misconfigured then .next (raiseInResult .busMisconfigured s)
  else if !s.cfg.hasSlot dev then .refused .noSuchSlot
  else if (s.dev dev).valid then .refused .slotAlreadyRegistered
  else if modeUnsupported s.cfg mode bpw hz then .next (raiseInResult .unsupportedMode s)
  else .next (registerDevice dev mode hz s)

/-! ### SUBMIT (R157) -/

/-- There is room for one more entry: always, unless the platform's depth is finite (R168, U5). -/
def hasRoom (c : Config) (n : Nat) : Bool :=
  match c.queueDepth with
  | none => true
  | some depth => decide (n < depth)

/-- Append to the tail and schedule the worker (R157, D22). -/
def enqueue (e : Entry) (s : State) : State :=
  setResult 0 { s with queue := s.queue ++ [e], busy := true }

/-- What SUBMIT and SUBMIT_ATOMIC ask of their operands (R157, R164, R43). -/
def submitOperands (d : Slot) (m : Word) (s : State) : Except Refusal Unit :=
  match slotReady d s with
  | .error r => .error r
  | .ok () => if descriptorAddress m then .ok () else .error .badDescriptorAddress

/-- SUBMIT (R157). -/
def execSubmit (dev : Slot) (msg : Word) (s : State) : Host.Outcome State Fault Refusal :=
  if s.misconfigured then .next (raiseInResult .busMisconfigured s)
  else
    match submitOperands dev msg s with
    | .error r => .refused r
    | .ok () =>
      if hasRoom s.cfg s.queue.length then .next (enqueue { msg := msg, dev := dev } s)
      else .refused .queueFull

/-! ### COMPLETE (R162) -/

/-- The completion of the Message just processed: read `callback` and `context`, append the record, drop the
marks of the bytes written while it was in flight (R162, R57). -/
def completeMsg (m : Word) (s : State) : Except Refusal State :=
  match messageOk s.cfg m with
  | .error r => .error r
  | .ok () =>
    if hasRoom s.cfg s.comp.length then
      let cb := memRead4 (m + 8) s
      let ctx := memRead4 (m + 12) cb.2
      let record : CompRec :=
        { msg := m, callback := cb.1, context := ctx.1, status := s.seq.status, actualLength := s.seq.actual }
      .ok (emit (.complete record) (dropMarks m { ctx.2 with comp := s.comp ++ [record] }))
    else .error .completionFull

/-- COMPLETE. -/
def execComplete (dev : Slot) (msg : Word) (s : State) : Host.Outcome State Fault Refusal :=
  if s.cfg.hasSlot dev then outcome (completeMsg msg s) else .refused .noSuchSlot

/-! ### WORKER_STEP (R160, R161) -/

/-- `select(queue, held)`: the first entry of the held device, else the head (R161). -/
def select (queue : List Entry) (held : Option Slot) : Nat :=
  match held with
  | some e => (queue.findIdx? (fun q => q.dev == e)).getD 0
  | none => 0

/-- The selected entry and the queue without it; `none` when the queue is empty. -/
def takeNext (queue : List Entry) (held : Option Slot) : Option (Entry × List Entry) :=
  match queue[select queue held]? with
  | some e => some (e, queue.eraseIdx (select queue held))
  | none => none

/-- The write-back of the previous turn, first thing in a locked region (R160). -/
def writeBack (s : State) : State :=
  match s.worker with
  | .owes h => { s with heldCs := h, inflight := none, worker := .atStart }
  | .atStart => s
  | .serving => s

/-- The locked region of a turn: the write-back, then, unless a running SUBMIT_ATOMIC holds the sequencer or the
worker is past this region already, the next Message or sleep (R160; log 12). The position keeps what the Message
before it left until the first Transfer is reached, since R14 gives it no starting value (DESIGN CHOICE, log 29). -/
def lockRegion (s : State) : State :=
  let s1 := writeBack s
  match s1.inflight with
  | some _ => s1
  | none =>
    match takeNext s1.queue s1.heldCs with
    | none => { s1 with busy := false }
    | some (e, rest) => { s1 with queue := rest, inflight := some e, worker := .serving }

/-- The unlocked part of a turn: process, complete; `h'` is kept for the next turn's write-back (R160). -/
def serve (e : Entry) (s : State) : Except Refusal State :=
  match processMsg e.dev e.msg s.heldCs s with
  | .error r => .error r
  | .ok s' =>
    match completeMsg e.msg s' with
    | .error r => .error r
    | .ok s'' => .ok { s'' with worker := .owes s'.seq.held }

/-- The unlocked part, when the locked region took a Message. -/
def serveCurrent (s : State) : Except Refusal State :=
  match s.worker, s.inflight with
  | .serving, some e => serve e s
  | _, _ => .ok s

/-- One turn of an awake worker, or the rest of the one it is in: the locked region, then the unlocked part
(R160). -/
def workerTurn (s : State) : Except Refusal State := serveCurrent (lockRegion s)

/-- The worker's locked region by itself, enabled when `busy` (R52, R160). -/
def workerLock (s : State) : State := if s.busy then lockRegion s else s

/-- WORKER_STEP: enabled when `busy`; a sleeping worker sleeps on (R160, R202; log 12). -/
def execWorkerStep (s : State) : Host.Outcome State Fault Refusal :=
  if s.busy then outcome (workerTurn s) else .next s

/-! ### SUBMIT_ATOMIC (R164 to R166) -/

/-- QueueAtomicHazard: `busy or (held_cs == some e and e != d)` (R165, R184). -/
def atomicHazard (d : Slot) (s : State) : Bool :=
  s.busy || (match s.heldCs with
    | some e => decide (e ≠ d)
    | none => false)

/-- The effect of the admission test on an admitted command: `hazard` is kept, the Message enters the sequencer
(R164), the position as it was (R14 gives no starting value: DESIGN CHOICE, log 29). -/
def enterAtomic (d : Slot) (m : Word) (s : State) : State :=
  { s with inflight := some { msg := m, dev := d }, caller := .admitted (atomicHazard d s) }

/-- The unlocked part of SUBMIT_ATOMIC: the forced release of the hazard case, then the Message, on the caller's
context (R164, R165). -/
def processAtomic (hazard : Bool) (e : Entry) (s : State) : Except Refusal State :=
  match processMsg e.dev e.msg (if hazard then none else s.heldCs)
      (if hazard then releaseHeld s.heldCs s else s) with
  | .error r => .error r
  | .ok s' => .ok { s' with caller := .processed s'.seq }

/-- The final write-back of SUBMIT_ATOMIC, one locked region; RESULT is still to be written (R52, R164). -/
def writeBackAtomic (r : SeqResult) (s : State) : State :=
  let marked :=
    match s.inflight with
    | some e => dropMarks e.msg s
    | none => s
  { marked with heldCs := r.held, inflight := none, caller := .idle, answers := s.answers ++ [resultOf r.status] }

/-- The atomic caller's next part (R8, R164). -/
def callerMove (s : State) : Except Refusal State :=
  match s.caller, s.inflight with
  | .admitted hazard, some e => processAtomic hazard e s
  | .processed r, _ => .ok (writeBackAtomic r s)
  | _, _ => .ok s

/-- The `i`-th SUBMIT_ATOMIC past its write-back writes RESULT and its CMD write completes (R164). -/
def writeAnswer (i : Nat) (s : State) : State :=
  match s.answers[i]? with
  | some w => setResult w { s with answers := s.answers.eraseIdx i }
  | none => s

/-- The admission test of SUBMIT_ATOMIC: the state after it, or the refusal (R164, R166). -/
def admission (d : Slot) (m : Word) (s : State) : Except Refusal State :=
  match submitOperands d m s with
  | .error r => .error r
  | .ok () => if s.inflight.isSome then .error .atomicRace else .ok (enterAtomic d m s)

/-- SUBMIT_ATOMIC with no other agent's move inside it: admission, PROCESS_MSG, write-back, RESULT (R164). -/
def runAtomic (d : Slot) (m : Word) (s : State) : Except Refusal State :=
  match admission d m s with
  | .error r => .error r
  | .ok s1 =>
    match callerMove s1 with
    | .error r => .error r
    | .ok s2 =>
      match callerMove s2 with
      | .error r => .error r
      | .ok s3 => .ok (writeAnswer s.answers.length s3)

/-- SUBMIT_ATOMIC as far as its admission, where other agents may move before it goes on (R8, R52, R164). -/
def beginAtomic (d : Slot) (m : Word) (s : State) : Host.Outcome State Fault Refusal :=
  if s.misconfigured then .next (raiseInResult .busMisconfigured s) else outcome (admission d m s)

/-- SUBMIT_ATOMIC (R164). -/
def execSubmitAtomic (dev : Slot) (msg : Word) (s : State) : Host.Outcome State Fault Refusal :=
  if s.misconfigured then .next (raiseInResult .busMisconfigured s) else outcome (runAtomic dev msg s)

end Sys2Proof.Machine
end

