-- ==== Sys2Proof/Machine/Gpio.lean ====
section
/-! DEFINITION. GPIO_SET, GPIO_GET, GPIO_DIR, DELAY (spec/40_gpio_lines.md). -/

namespace Sys2Proof.Machine

/-- GPIO_SET: the two `require` lines of R90, then the update. -/
def execGpioSet (high low : Word) (s : State) : Host.Outcome State Fault Refusal :=
  if high &&& low ≠ 0 then .refused .overlappingMasks
  else if ownLines s.cfg (high ||| low) then .next (lineSet high low s)
  else .refused .lineOutOfRange

/-- GPIO_GET: the mask is the operation's result (R73, R92). -/
def execGpioGet (s : State) : Host.Outcome State Fault Refusal :=
  let r := lineGet s
  .next { r.2 with ret := r.1 }

/-- GPIO_DIR: the reserved direction and the mask's `require` line (R81, R94), then the update. Which lines support
open-drain is the platform's (R94 "where supported", N19): here every line the block owns does (DESIGN CHOICE,
log 28). -/
def execGpioDir (direction : BitVec 2) (mask : Word) (s : State) : Host.Outcome State Fault Refusal :=
  match dirOperand direction with
  | none => .refused .reservedDirection
  | some dir => if ownLines s.cfg mask then .next (lineDir mask dir s) else .refused .lineOutOfRange

/-- DELAY (R96). -/
def execDelay (ns : Word) (s : State) : Host.Outcome State Fault Refusal := .next (waitNs ns s)

end Sys2Proof.Machine
end

