-- ==== Sys2Proof/Machine/Dispatch.lean ====
section
/-! DEFINITION. One arm per constructor of Instr: its meaning. -/

namespace Sys2Proof.Machine

def exec (i : Instr) (s : State) : Host.Outcome State Fault Refusal :=
  match i with
  -- host commands
  | .regdev dev bpw mode hz => Sys2Proof.Machine.execRegdev dev bpw mode hz s
  | .submit dev msg => Sys2Proof.Machine.execSubmit dev msg s
  | .submitAtomic dev msg => Sys2Proof.Machine.execSubmitAtomic dev msg s
  -- lines and delay
  | .gpioSet high low => Sys2Proof.Machine.execGpioSet high low s
  | .gpioGet => Sys2Proof.Machine.execGpioGet s
  | .gpioDir direction mask => Sys2Proof.Machine.execGpioDir direction mask s
  | .delay ns => Sys2Proof.Machine.execDelay ns s
  -- engine
  | .shiftByte cpha cpol wantRx tx => Sys2Proof.Machine.execShiftByte cpha cpol wantRx tx s
  | .shiftWord cs cpol count tx => Sys2Proof.Machine.execShiftWord cs cpol count tx s
  | .xfer dev desc => Sys2Proof.Machine.execXfer dev desc s
  -- speed
  | .setSpeed hz => Sys2Proof.Machine.execSetSpeed hz s
  -- sequencer
  | .csAssert dev => Sys2Proof.Machine.execCsAssert dev s
  | .csDeassert dev => Sys2Proof.Machine.execCsDeassert dev s
  | .processMsg dev msg => Sys2Proof.Machine.execProcessMsg dev msg s
  -- dispatcher
  | .workerStep => Sys2Proof.Machine.execWorkerStep s
  | .complete dev msg => Sys2Proof.Machine.execComplete dev msg s

end Sys2Proof.Machine
end

