-- ==== Sys2Proof/Machine/HostPort.lean ====
section
/-! DEFINITION. What the agents outside the block can do to it: issue an operation (spec/30_encoding.md R65),
access the register window (spec/10_state.md R22 to R33, spec/20_memory.md R47), store into host memory (R57),
reset (spec/70_reset_and_hazards.md R212), and whose turn it is (spec/00_scope.md R8). -/

namespace Sys2Proof.Machine

/-- Issue a triple: a host command's pair of writes puts `arg0` into ARG0 first (R65, R221); then the
operation runs. A triple that names no operation is refused by name, as an illegal command when its class
is the host's (R66, R80). -/
def issue (t : Triple) (s : State) : Host.Outcome State Fault Refusal :=
  match decode t with
  | .error _ => .refused (if hostClass t.header then .invalidCommand else .reservedEncoding)
  | .ok i => if hostClass t.header then exec i { s with arg0 := t.arg0 } else exec i s

/-- A register-window access has a meaning only as 32 bits on a multiple of 4 (R47, U9). -/
def accessOk (off : Word) (width : Nat) : Bool := decide (width = 4) && decide (off.toNat % 4 = 0)

/-- A write to CMD: the word and ARG0 name the command (R23, R68); INVALID is refused (R80, U8). -/
def writeCmd (w : Word) (s : State) : Host.Outcome State Fault Refusal :=
  match decodeCmd w s.arg0 with
  | .error _ => .refused .invalidCommand
  | .ok i => exec i s

/-- A write to the register window: CMD, ARG0, COMP_POP and IRQ_EN act; a read-only register or an offset
not listed ignores it (R22, R23, R31, R32). -/
def writeReg (off : Word) (width : Nat) (v : Word) (s : State) : Host.Outcome State Fault Refusal :=
  if !accessOk off width then .refused .badWindowAccess
  else if off = 0x00 then writeCmd v s
  else if off = 0x04 then .next { s with arg0 := v }
  else if off = 0x44 then .next (popCompletion s)
  else if off = 0x48 then .next { s with compIe := v.getLsbD 0 }
  else .next s

/-- A read of the register window puts the value on the host's side (`busData`). Only GPIO_IN draws an
answer of the environment (R27, R49; log 19). -/
def readReg (off : Word) (width : Nat) (s : State) : Host.Outcome State Fault Refusal :=
  if !accessOk off width then .refused .badWindowAccess
  else if off = 0x24 then .next { consumeAnswer s with busData := regValue s 0x24 }
  else .next { s with busData := regValue s off.toNat }

/-- The host stores a byte: it is written, and marked with every Message in flight, so that a read of it for such
a Message is a draw (R57, U7; log 7). -/
def hostStore (a : Word) (b : Byte) (s : State) : State :=
  { storeByte a b s with raced := s.raced ++ s.inFlight.map (fun m => (m, a)) }

/-- A host context issues a command and other agents may move before it is through: SUBMIT_ATOMIC gets as far as
its admission; every other triple runs to its end (R52, R164). -/
def beginCommand (header arg0 : Word) (s : State) : Host.Outcome State Fault Refusal :=
  match decode { header := header, arg0 := arg0, arg1 := 0 } with
  | .ok (.submitAtomic dev msg) => beginAtomic dev msg { s with arg0 := arg0 }
  | _ => issue { header := header, arg0 := arg0, arg1 := 0 } s

/-- One move of one agent. -/
def act : Action → State → Host.Outcome State Fault Refusal
  | .issue header arg0 arg1, s => issue { header := header, arg0 := arg0, arg1 := arg1 } s
  | .begin header arg0, s => beginCommand header arg0 s
  | .caller, s => outcome (callerMove s)
  | .answer i, s => .next (writeAnswer i s)
  | .writeReg off width v, s => writeReg off width v s
  | .readReg off width, s => readReg off width s
  | .store addr v, s => .next (hostStore addr v s)
  | .worker, s => exec .workerStep s
  | .workerLock, s => .next (workerLock s)
  | .reset, s => .next (resetNow s)
  | .resetDuring move n, s =>
    match act move s with
    | .next t => .next (resetWithin n s t)
    | .fault f => .fault f
    | .refused r => .refused r

/-- Whose move it is with an empty agenda: the atomic caller's, then a command's that owes RESULT, then the
worker's, whose turn a sleeping worker does not take (R8, R160, R202; log 4). -/
def defaultMove (s : State) : Action :=
  if s.caller ≠ .idle then .caller else if s.answers ≠ [] then .answer 0 else .worker

/-- The next move: the head of the agenda, or the default one (R8; log 4). -/
def nextMove (s : State) : Host.Outcome State Fault Refusal :=
  match s.agenda with
  | [] => act (defaultMove s) s
  | a :: rest => act a { s with agenda := rest }

/-- The agenda with the triple first: the very next move issues it. -/
def issueNext (t : Triple) (s : State) : State :=
  { s with agenda := .issue t.header t.arg0 t.arg1 :: s.agenda }

end Sys2Proof.Machine
end

