-- ==== Sys2Proof/Machine/Step.lean ====
section
/-! DEFINITION. One step of the machine. -/

namespace Sys2Proof.Machine

/-- One move of one agent. -/
def step (s : State) : Host.Outcome State Fault Refusal := nextMove s

/-- `s` with the opcode table's word `w` as the operation that the next step issues. -/
def State.withFetchWord (s : State) (nbits w : Nat) : State := issueNext (tableTriple nbits w) s

end Sys2Proof.Machine
end

