-- ==== Sys2Proof/Safety.lean ====
section
/-! DEFINITION. What counts as a safe state and a safe move, in the terms the claims use: the invariant every
step keeps, which chip-select is selected, and which moves are a host's or the worker's own. -/

namespace Sys2Proof.Machine

/-- A slot that exists and is registered (R20, R156). -/
def State.ready (s : State) (d : Slot) : Bool := s.cfg.hasSlot d && (s.dev d).valid

/-- A Message address and device as SUBMIT accepts them (R157). -/
def State.entryOk (s : State) (e : Entry) : Bool := s.ready e.dev && descriptorAddress e.msg

/-- The speed state is the one of the last request (R16 "must always reflect", R121). -/
def speedOk (c : Config) (v : Speed) : Prop :=
  match v.curHz with
  | none => v = { curHz := none, softDelayNs := 0, divider := none }
  | some hz => hz ≠ 0 ∧ v = speedFor c hz

/-- What holds in every state a controller can be in, whatever moves: the platform is legal (R4), host memory
is canonical, no mask has a bit at or above NLINES and no line is both `PP` and `OD` (R11, D12), every valid
slot holds a supported mode (R182), every queued, held or processed device is registered (R15, R17), a
non-empty queue has an awake worker (R17, R157), a Message is in the sequencer between moves exactly while the
worker or the atomic caller is past its locked region and has not written back, and never both are (R15, R53, R160,
R164), BITCNT is 0 between units (R12, R104), the speed state is the last request's (R16), and a misconfigured
controller has no device (R19, R183). -/
structure Inv (s : State) : Prop where
  platform : s.cfg.wf = true
  memory : s.mem.wf = true
  latchLines : s.gpioOut &&& ~~~s.cfg.lineMask = 0
  pushPullLines : s.gpioPP &&& ~~~s.cfg.lineMask = 0
  openDrainLines : s.gpioOD &&& ~~~s.cfg.lineMask = 0
  oneDirection : s.gpioPP &&& s.gpioOD = 0
  devices : ∀ d : Slot, (s.dev d).valid = true →
    s.cfg.hasSlot d = true ∧ (s.dev d).bpw = 8 ∧ (s.dev d).maxSpeedHz ≠ 0 ∧
      ((s.dev d).cpha = true → s.cfg.cpha1Supported = true)
  queued : ∀ e ∈ s.queue, s.entryOk e = true
  awake : s.queue ≠ [] → s.busy = true
  held : ∀ d, s.heldCs = some d → s.ready d = true
  lastHeld : ∀ d, s.seq.held = some d → s.ready d = true
  owedHeld : ∀ d, s.worker = .owes (some d) → s.ready d = true
  callerHeld : ∀ r d, s.caller = .processed r → r.held = some d → s.ready d = true
  current : ∀ e, s.inflight = some e → s.entryOk e = true
  sequencer : s.inflight.isSome = true ↔ (s.worker ≠ .atStart ∨ s.caller ≠ .idle)
  oneAgent : s.worker = .atStart ∨ s.caller = .idle
  running : s.worker ≠ .atStart → s.busy = true
  mark : s.misconfigured = !s.cfg.gpioMapped
  noDevice : s.misconfigured = true → ∀ d : Slot, (s.dev d).valid = false
  unitDone : s.bitCnt = 0
  speed : speedOk s.cfg s.speed

/-- The device whose select the last processed Message left asserted: `h'` while the worker's or the atomic
caller's write-back is owed, else `held_cs` (R17, R160, R164). -/
def State.selected (s : State) : Option Slot :=
  match s.worker, s.caller with
  | .owes h, _ => h
  | _, .processed r => r.held
  | _, _ => s.heldCs

/-- The chip-select line of slot `d` is at its active level (00_scope glossary, R135). -/
def State.csActive (s : State) (d : Slot) : Bool :=
  s.gpioOut.getLsbD (s.cfg.slot d).cs == (s.dev d).csHigh

/-- Between moves the chip-select line of a registered slot is driven, and active exactly when the slot is
the selected one; so at most one is active (R135, R230 c). -/
def SelectInv (s : State) : Prop :=
  ∀ d : Slot, s.ready d = true →
    s.dirOf (s.cfg.slot d).cs = .pushPull ∧ (s.csActive d = true ↔ s.selected = some d)

/-- A move of the host or the worker, as opposed to a micro-operation issued by itself (R66). -/
def Action.hostLevel : Action → Bool
  | .issue header _ _ => hostClass header
  | .begin header _ => hostClass header
  | _ => true

/-- The next move of `s` is the host's or the worker's own. -/
def State.hostMoves (s : State) : Bool :=
  match s.agenda with
  | [] => true
  | a :: _ => a.hostLevel

/-! ### The wire, as the claims describe it -/

/-- The environment's next `n` answers to GPIO_GET (R92). -/
def State.samples (s : State) : Nat → List Word
  | 0 => []
  | n + 1 => s.lineAnswer :: State.samples (consumeAnswer s) n

/-- The event of one line driven to a level (R97). -/
def levelEvent (n : Nat) (v : Bool) : Event := .lineSet (if v then bit n else 0) (if v then 0 else bit n)

/-- The event of a delay, none for 0 (R96). -/
def delayEvents (ns : Word) : List Event := if ns = 0 then [] else [.delay ns]

/-- The events of one bit with CPHA = 0, in the order of R102; `m` is what LineGet returns. -/
def bitEvents0 (c : Config) (ns : Word) (wantRx cpol b : Bool) (m : Word) : List Event :=
  [levelEvent c.mosi b] ++ delayEvents ns ++ [levelEvent c.sck (!cpol)] ++ delayEvents ns
    ++ (if wantRx then [.lineGet m] else []) ++ [levelEvent c.sck cpol]

/-- The events of one bit with CPHA = 1, in the order of R103. -/
def bitEvents1 (c : Config) (ns : Word) (wantRx cpol b : Bool) (m : Word) : List Event :=
  [levelEvent c.sck (!cpol), levelEvent c.mosi b] ++ delayEvents ns ++ [levelEvent c.sck cpol]
    ++ delayEvents ns ++ (if wantRx then [.lineGet m] else [])

/-- The events of one bit of the peripheral, in the order of R106. -/
def bitEventsHw (c : Config) (cpol b : Bool) (m : Word) : List Event :=
  [levelEvent c.mosi b, levelEvent c.sck (!cpol), .lineGet m, levelEvent c.sck cpol]

/-- The events of a unit: bits `n-1` down to 0 of `tx`, each with its own answer (R101). -/
def unitEvents (one : Bool → Word → List Event) (tx : Word) : Nat → List Word → List Event
  | 0, _ => []
  | k + 1, ms => one (tx.getLsbD k) (ms.headD 0) ++ unitEvents one tx k ms.tail

/-- The level an event puts line `n` at, if it is a GPIO_SET that names the line (R90). -/
def levelOf (n : Nat) : Event → Option Bool
  | .lineSet high low =>
    if high.getLsbD n then some true else if low.getLsbD n then some false else none
  | _ => none

/-- The levels line `n` is put at, in order, by the events `t` has beyond those of `s`. -/
def levelsSince (n : Nat) (s t : State) : List Bool :=
  (t.trace.drop s.trace.length).filterMap (levelOf n)

/-- The events of CS_ASSERT (R136). -/
def assertEvents (s : State) (d : Slot) : List Event :=
  let p := s.cfg.slot d
  [levelEvent s.cfg.sck (s.dev d).cpol, levelEvent p.cs (s.dev d).csHigh]
    ++ (if p.auxHigh ||| p.auxLow = 0 then [] else [.lineSet p.auxHigh p.auxLow])

/-- The events of CS_DEASSERT (R137). -/
def deassertEvents (s : State) (d : Slot) : List Event :=
  let p := s.cfg.slot d
  [levelEvent p.cs (!(s.dev d).csHigh)]
    ++ (if p.auxHigh ||| p.auxLow = 0 then [] else [.lineSet p.auxLow p.auxHigh])
    ++ (if p.strobe = 0 then [] else [.lineSet p.strobe 0, .lineSet 0 p.strobe])

/-- The events of releasing whatever `h` names (R138, R142). -/
def releaseEvents (s : State) (h : Option Slot) : List Event :=
  match h with
  | some e => deassertEvents s e
  | none => []

/-- The byte whose bits, most significant first, are line `n` of eight masks (R101). -/
def byteOf (n : Nat) (ms : List Word) : Byte :=
  (ms.take 8).foldl (fun b m => (b <<< 1) ||| (BitVec.ofBool (m.getLsbD n)).setWidth 8) 0

/-- The `k`-th byte the slave answers, when the environment's script holds all its bits (R101, R92). -/
def State.slaveByte (s : State) (k : Nat) : Byte :=
  byteOf s.cfg.miso ((s.lineScript.drop (8 * k)).map (fun w => w &&& s.cfg.lineMask))

/-- The bits of a byte in wire order (R46 a, R101). -/
def wireBits (b : Byte) : List Bool := [7, 6, 5, 4, 3, 2, 1, 0].map (fun k => b.getLsbD k)

/-- The byte host memory holds at `a`, a free value where nothing was written (R41, log 6). -/
def State.memByte (s : State) (a : Word) : Byte := (s.mem.read a.toNat).getD (Config.unwrittenByte a)

/-- The `k`-th byte a Transfer sends: of the tx buffer, or zero without one (R45, R110). -/
def State.txByteAt (s : State) (t : Transfer) (k : Nat) : Byte :=
  if t.txPtr = 0 then 0 else s.memByte (t.txPtr + BitVec.ofNat 32 k)

/-- The event is a MemWrite that stores the byte at `a` (R41). -/
def storesAt (a : Nat) : Event → Bool
  | .memWrite addr n _ => decide (addr.toNat ≤ a ∧ a < addr.toNat + n)
  | _ => false

/-- No byte of the tx buffer is overwritten before it is sent: one buffer is absent, nothing is stored, or the
two do not overlap at a nonzero offset (R110, U7). -/
def buffersApart (t : Transfer) : Prop :=
  t.txPtr = 0 ∨ t.rxPtr = 0 ∨ t.verify = true ∨ t.txPtr = t.rxPtr ∨ t.txPtr.toNat + t.len.toNat ≤ t.rxPtr.toNat ∨
    t.rxPtr.toNat + t.len.toNat ≤ t.txPtr.toNat

/-- The conditions of R107 for the fast path, in its order; an absent buffer's pointer is 0, a multiple of 4. -/
abbrev wordPath (s : State) (d : Slot) (t : Transfer) : Prop :=
  s.cfg.engine = .hwShift ∧ 4 ≤ t.len.toNat ∧ t.txPtr.toNat % 4 = 0 ∧ t.rxPtr.toNat % 4 = 0 ∧
    (s.cfg.slot d).slow = false ∧ s.speed.divider ≠ none ∧ t.verify = false ∧ s.latch.cpha = false

/-- The event is a delay (R96). -/
def isDelay : Event → Bool
  | .delay _ => true
  | _ => false

/-- The delays `t` has beyond those of `s`, in order. -/
def delaysSince (s t : State) : List Event := (t.trace.drop s.trace.length).filter isDelay

/-- The delays of `n` bytes of the byte loop: two half periods a bit, none when they are 0 (R96, R102, R103). -/
def byteDelays (ns : Word) (n : Nat) : List Event := List.replicate (16 * n) (delayEvents ns) |>.flatten

/-- The levels SCK is put at by `n` bytes: active and idle once a bit (R102, R103, R106). -/
def clockLevels (cpol : Bool) (n : Nat) : List Bool := (List.replicate (8 * n) [!cpol, cpol]).flatten

/-- The levels MOSI is put at by the first `n` bytes of a Transfer that starts at `s` (R101, R110). -/
def State.dataLevels (s : State) (t : Transfer) (n : Nat) : List Bool :=
  (List.range n).flatMap (fun k => wireBits (s.txByteAt t k))

/-- How many bytes a Transfer that moved `got` clocked: in verify mode the mismatching one too (R110, R111). -/
def bytesClocked (t : Transfer) (got : Word) : Nat :=
  if t.verify then min (got.toNat + 1) t.len.toNat else t.len.toNat

/-- What XFER alone asks of its operands and of the mode latch (R43, R48, R103). -/
def xferRuns (s : State) (d : Slot) (desc : Word) : Prop :=
  s.cfg.hasSlot d = true ∧ descriptorAddress desc = true ∧ rangeOk s.cfg desc 20 = true ∧
    (transferAt desc s).ok s.cfg = true ∧ (s.latch.cpha = true → s.cfg.cpha1Supported = true)

/-- What PROCESS_MSG asks of its operands (R43, R48, R139). -/
def messageRuns (s : State) (d : Slot) (m : Word) : Prop :=
  s.ready d = true ∧ messageOk s.cfg m = .ok ()

/-! ### Messages of any number of Transfers -/

/-- `xfer_cnt` of the Message at `m` (R44). -/
def State.transferCount (s : State) (m : Word) : Nat := (s.wordAt (m + 4)).toNat

/-- The address of its `k`-th transfer descriptor (R44). -/
def State.transferAddr (s : State) (m : Word) (k : Nat) : Word := s.wordAt m + BitVec.ofNat 32 (20 * k)

/-- Its `k`-th Transfer, as memory holds it now (R45). -/
def State.transferOf (s : State) (m : Word) (k : Nat) : Transfer := transferAt (s.transferAddr m k) s

/-- The byte at `a` is outside what a Transfer stores: it is in verify mode, has no rx buffer, or `a` is not in
it (R45, R111). -/
abbrev outsideRx (t : Transfer) (a : Nat) : Prop :=
  t.verify = true ∨ t.rxPtr = 0 ∨ a < t.rxPtr.toNat ∨ t.rxPtr.toNat + t.len.toNat ≤ a

/-- No Transfer stores into the descriptor of a later one, which R58 leaves to the host. -/
abbrev descriptorsKept (s : State) (m : Word) : Prop :=
  ∀ j < s.transferCount m, ∀ k < j, ∀ i < 20, outsideRx (s.transferOf m k) ((s.transferAddr m j).toNat + i)

/-- The `k`-th transfer descriptor is one R48 allows. -/
abbrev descriptorOk (s : State) (m : Word) (k : Nat) : Prop :=
  rangeOk s.cfg (s.transferAddr m k) 20 = true ∧ (s.transferOf m k).ok s.cfg = true

/-- A Message with Transfers gets as far as its first descriptor, and what the descriptors say stays (R43, R44,
R48, R58, R103, R155); nothing is asked of the sequencer, the worker or the atomic caller. -/
structure MessageStarts (s : State) (d : Slot) (m : Word) : Prop where
  platform : s.cfg.wf = true
  operands : messageRuns s d m
  notRaced : s.raced = []
  speed : (s.dev d).maxSpeedHz ≠ 0
  phase : (s.dev d).cpha = true → s.cfg.cpha1Supported = true
  heldPhase : s.latch.cpha = true → s.cfg.cpha1Supported = true
  some : s.transferCount m ≠ 0
  array : transfersOk (s.wordAt m) (s.transferCount m) = true
  kept : descriptorsKept s m

/-- A well-formed Message with Transfers (R48). -/
def messageServes (s : State) (d : Slot) (m : Word) : Prop :=
  MessageStarts s d m ∧ ∀ k < s.transferCount m, descriptorOk s m k

/-- The levels the select of `d` is put at right after the `k`-th of `n` Transfers (R140, R141): released after a
short one, toggled by `cs_change` before the next, released after the last one without `cs_change`. -/
def edgesAfter (high complete csChange isLast : Bool) : List Bool :=
  if !complete then [!high]
  else if isLast then (if csChange then [] else [!high])
  else if csChange then [!high, high] else []

/-- The addresses of the 4-byte reads `t` has beyond those of `s` (R41). -/
def wordReadsSince (s t : State) : List Word :=
  (t.trace.drop s.trace.length).filterMap (fun e =>
    match e with
    | .memRead a n _ => if n = 4 then some a else none
    | _ => none)

/-- The reads of the `k`-th transfer descriptor (R58, R139). -/
def descriptorEvents (s : State) (m : Word) (k : Nat) : List Event :=
  let a := s.transferAddr m k
  let x := s.transferOf m k
  [.memRead a 4 x.txPtr, .memRead (a + 4) 4 x.rxPtr, .memRead (a + 8) 4 x.len, .memRead (a + 12) 4 x.speedHz,
    .memRead (a + 16) 4 x.flags]

/-- The select of `d` is asserted already when the `k`-th Transfer is reached (R139, R141). -/
def assertedBefore (s : State) (d : Slot) (m : Word) : Nat → Bool
  | 0 => decide (s.heldCs = some d)
  | k + 1 => !(s.transferOf m k).csChange

/-- The events from one XFER of a Message to the next, or from its start to the first (R139, R141, R142). -/
def eventsBefore (s : State) (d : Slot) (m : Word) (k : Nat) : List Event :=
  (match k with
    | 0 => [.memRead m 4 (s.wordAt m), .memRead (m + 4) 4 (s.wordAt (m + 4))] ++
        (if s.heldCs = some d then [] else releaseEvents s s.heldCs)
    | j + 1 => if (s.transferOf m j).csChange then deassertEvents s d else [])
  ++ descriptorEvents s m k ++ (if assertedBefore s d m k then [] else assertEvents s d)

/-- The mode latch at an XFER, from the one before it (R13, R136). -/
def latchAt (s : State) (d : Slot) (asserted : Bool) (before : Mode) : Mode :=
  if asserted then before else { cpol := (s.dev d).cpol, cpha := (s.dev d).cpha }

/-- The speed state at an XFER, from the one before it: SET_SPEED when `cur_hz` differs (R124, R139). -/
def speedAt (c : Config) (hz : Word) (before : Speed) : Speed :=
  if before.curHz = some hz then before else speedFor c hz

/-- The XFERs of a Message, `runs` the states before and after each: `got <- XFER(d, t)` of R139, what lies between
them, and the data they move. -/
structure Transfers (s t : State) (d : Slot) (m : Word) (gots : List Word) (runs : List (State × State)) : Prop where
  length : runs.length = gots.length
  /-- each is the XFER of the `k`-th descriptor, as memory had it at the start, on the same platform -/
  xfer : ∀ k x y, runs[k]? = some (x, y) →
    exec (.xfer d (s.transferAddr m k)) x = .next y ∧ y.ret = gots.getD k 0 ∧
      transferAt (s.transferAddr m k) x = s.transferOf m k ∧ x.cfg = s.cfg
  /-- from the start to the first XFER -/
  first : ∀ x y, runs[0]? = some (x, y) →
    x.trace = s.trace ++ eventsBefore s d m 0 ∧ x.mem = s.mem ∧ x.lineScript = s.lineScript ∧
      x.latch = latchAt s d (assertedBefore s d m 0) s.latch ∧
      x.speed = speedAt s.cfg (effHz d (s.transferOf m 0) s) s.speed
  /-- from one XFER to the next -/
  next : ∀ k x y x' y', runs[k]? = some (x, y) → runs[k + 1]? = some (x', y') →
    x'.trace = y.trace ++ eventsBefore s d m (k + 1) ∧ x'.mem = y.mem ∧ x'.lineScript = y.lineScript ∧
      x'.latch = latchAt s d (assertedBefore s d m (k + 1)) y.latch ∧
      x'.speed = speedAt s.cfg (effHz d (s.transferOf m (k + 1)) s) y.speed
  /-- from the last XFER to the end -/
  last : ∀ x y, runs.getLast? = some (x, y) →
    t.trace = y.trace ++ (if t.seq.held = none then deassertEvents s d else []) ++
        [.memWrite (m + 0x10) 4 t.seq.status, .memWrite (m + 0x14) 4 t.seq.actual] ∧
      t.lineScript = y.lineScript ∧ t.latch = y.latch ∧ t.speed = y.speed ∧
      ∀ a : Nat, (a < m.toNat + 0x10 ∨ m.toNat + 0x18 ≤ a) → t.mem.read a = y.mem.read a
  /-- without engine faults each executed Transfer leaves the bytes the slave answered in its rx buffer, where no
  later one and no result word overwrites them (R46, R101, R110; the answers are the script's, log 5) -/
  stored : s.cfg.hwFaults = [] →
    8 * ((List.range gots.length).map (fun k => (s.transferOf m k).len.toNat)).sum ≤ s.lineScript.length →
    ∀ k x y, runs[k]? = some (x, y) → (s.transferOf m k).verify = false → (s.transferOf m k).rxPtr ≠ 0 →
    ∀ j < (s.transferOf m k).len.toNat,
      (s.transferOf m k).rxPtr.toNat + j < m.toNat + 0x10 ∨ m.toNat + 0x18 ≤ (s.transferOf m k).rxPtr.toNat + j →
      (∀ i, k < i → i < gots.length → outsideRx (s.transferOf m i) ((s.transferOf m k).rxPtr.toNat + j)) →
      t.mem.read ((s.transferOf m k).rxPtr.toNat + j) = some (x.slaveByte j)
  /-- without engine faults each executed Transfer sends the bytes of its tx buffer, or zeros (R45, R101, R110) -/
  sent : s.cfg.hwFaults = [] → ∀ k x y, runs[k]? = some (x, y) → buffersApart (s.transferOf m k) →
    levelsSince s.cfg.mosi x y =
        x.dataLevels (s.transferOf m k) (bytesClocked (s.transferOf m k) (gots.getD k 0)) ∧
      levelsSince s.cfg.sck x y = clockLevels x.latch.cpol (bytesClocked (s.transferOf m k) (gots.getD k 0))

/-- What PROCESS_MSG of a Message with Transfers does from `s`, with the held state of `s`, to `t`, when `gots` are
the counts that its executed Transfers moved, in order (R44, R45, R139 to R143, R145). -/
structure Served (s t : State) (d : Slot) (m : Word) (gots : List Word) : Prop where
  /-- at least one Transfer is executed, at most all of them -/
  executed : 0 < gots.length ∧ gots.length ≤ s.transferCount m
  /-- no Transfer moves more than its `len` -/
  within : ∀ k < gots.length, (gots.getD k 0).toNat ≤ (s.transferOf m k).len.toNat
  /-- only verify mode or an engine fault makes a Transfer short -/
  whole : s.cfg.hwFaults = [] → ∀ k < gots.length, (s.transferOf m k).verify = false →
    gots.getD k 0 = (s.transferOf m k).len
  /-- every Transfer before the last executed one was complete -/
  before : ∀ k, k + 1 < gots.length → gots.getD k 0 = (s.transferOf m k).len
  /-- the remaining ones are not executed after a short one, and only then -/
  remaining : gots.length = s.transferCount m ∨
    gots.getD (gots.length - 1) 0 ≠ (s.transferOf m (gots.length - 1)).len
  /-- the status is 1 exactly when the last executed one was short -/
  status : t.seq.status =
    if gots.getD (gots.length - 1) 0 = (s.transferOf m (gots.length - 1)).len then 0 else 1
  /-- `actual_length` is the sum of the counts -/
  actual : t.seq.actual = gots.foldl (· + ·) 0
  /-- the select is returned as held exactly after a complete last Transfer with `cs_change` -/
  held : t.seq.held =
    if t.seq.status = 0 ∧ (s.transferOf m (gots.length - 1)).csChange = true then some d else none
  /-- every edge of the select, in order -/
  edges : levelsSince (s.cfg.slot d).cs s t =
    (if s.heldCs = some d then [] else [(s.dev d).csHigh]) ++
      (List.range gots.length).flatMap (fun k =>
        edgesAfter (s.dev d).csHigh (decide (gots.getD k 0 = (s.transferOf m k).len))
          (s.transferOf m k).csChange (decide (k + 1 = s.transferCount m)))
  /-- the descriptors read, each once and in order: those of the executed Transfers only -/
  reads : wordReadsSince s t =
    [m, m + 4] ++ (List.range gots.length).flatMap (fun k =>
      [s.transferAddr m k, s.transferAddr m k + 4, s.transferAddr m k + 8, s.transferAddr m k + 12,
        s.transferAddr m k + 16])
  /-- each executed Transfer is an XFER, with the data it moves -/
  transfers : ∃ runs, Transfers s t d m gots runs
  /-- the effective speed of the last executed Transfer is in force -/
  speed : t.speed.curHz = some (effHz d (s.transferOf m (gots.length - 1)) s)
  /-- memory changes in the result words and in the rx buffers of the executed Transfers only -/
  memory : ∀ a : Nat, (a < m.toNat + 0x10 ∨ m.toNat + 0x18 ≤ a) →
    (∀ k < gots.length, outsideRx (s.transferOf m k) a) → t.mem.read a = s.mem.read a

end Sys2Proof.Machine
end

