-- ==== Sys2Proof/Certificates/Slice0/Obligations.lean ====
section
/-! DEFINITION. The statements for the provers. A state `t` "with fields put back" equal to `s` says that every
other field of `t` is that of `s`. -/

open Sys2Proof Sys2Proof.Machine

/-! ### Encoding (spec/30_encoding.md) -/

/-- R65, R70 to R78: decoding an encoded operation gives it back, every operand at every value. -/
def Obligations.DecodeOfEncode : Prop := ∀ i : Instr, decode (encode i) = .ok i

/-- R65 "unused bits must be 0": a triple that decodes is the encoding of what it decodes to. R65 says so of header
bits and of a host command's `arg1`; that a micro-operation's unused argument word must be 0 too is the model's
reading (log 22, DEDUCED). -/
def Obligations.EncodeOfDecode : Prop := ∀ (t : Triple) (i : Instr), decode t = .ok i → encode i = t

/-- R68, line by line; INVALID is `none`. -/
def Obligations.CmdDecodesHostCommandsOnly : Prop :=
  ∀ w arg0 : Word,
    (match decodeCmd w arg0 with
      | .ok i => some i
      | .error _ => none) =
      if w.extractLsb' 24 8 = 0x01 ∧ w.extractLsb' 16 4 = 0 then
        some (.regdev (w.extractLsb' 20 4) (w.extractLsb' 8 8) (w.extractLsb' 0 8) arg0)
      else if w.extractLsb' 24 8 = 0x02 ∧ w.extractLsb' 0 20 = 0 then
        some (.submit (w.extractLsb' 20 4) arg0)
      else if w.extractLsb' 24 8 = 0x03 ∧ w.extractLsb' 0 20 = 0 then
        some (.submitAtomic (w.extractLsb' 20 4) arg0)
      else none

/-- Words of 95_test_vectors.md section 2.1. -/
def Obligations.SpecWordsDecode : Prop :=
  decode { header := 0x01100803, arg0 := 0x0007A120, arg1 := 0 } = .ok (.regdev 1 8 3 500000) ∧
  decode { header := 0x03100000, arg0 := 0x00001400, arg1 := 0 } = .ok (.submitAtomic 1 0x1400) ∧
  decode { header := 0x82000002, arg0 := 0x00000020, arg1 := 0 } = .ok (.gpioDir 2 0x20) ∧
  decode { header := 0x90000580, arg0 := 0, arg1 := 0 } = .ok (.shiftByte true false true 0x80) ∧
  decode { header := 0x91100108, arg0 := 0x000000A5, arg1 := 0 } = .ok (.shiftWord 1 true 8 0xA5) ∧
  decode { header := 0xC1100000, arg0 := 0x00001200, arg1 := 0 } = .ok (.complete 1 0x1200) ∧
  decodeCmd 0x9000019F 0 = .error .notAHostCommand ∧ decodeCmd 0x02000001 0 = .error .mustBeZero

/-! ### Steps and commands (00_scope R8, 30_encoding R65, 10_state R23) -/

/-- A step takes the head of the agenda and is that agent's move: an access to the register window, a host store or a
worker turn does what `readReg`, `writeReg`, `hostStore` and WORKER_STEP do, and one that issues a decodable triple
runs exactly that operation, with a host command's `arg0` in ARG0 (R65, R221). With an empty agenda the atomic caller
goes on, else an owed RESULT is written, else the worker has its turn. That a step takes the head of an agenda, what it
does with an empty one, and that it can issue a micro-operation by itself, is the model's choice (log 4, DESIGN
CHOICE): R65 makes a micro-operation's triple only a name. -/
def Obligations.StepRunsIssuedOperation : Prop :=
  (∀ (s : State) (header arg0 arg1 : Word) (rest : List Action) (i : Instr),
    s.agenda = .issue header arg0 arg1 :: rest →
    decode { header := header, arg0 := arg0, arg1 := arg1 } = .ok i →
    step s = exec i (if hostClass header then { s with agenda := rest, arg0 := arg0 }
      else { s with agenda := rest })) ∧
  (∀ (s : State) (a : Action) (rest : List Action), s.agenda = a :: rest → step s = act a { s with agenda := rest }) ∧
  (∀ (s : State) (off : Word) (width : Nat) (rest : List Action), s.agenda = .readReg off width :: rest →
    step s = readReg off width { s with agenda := rest }) ∧
  (∀ (s : State) (off v : Word) (width : Nat) (rest : List Action), s.agenda = .writeReg off width v :: rest →
    step s = writeReg off width v { s with agenda := rest }) ∧
  (∀ (s : State) (a : Word) (v : Byte) (rest : List Action), s.agenda = .store a v :: rest →
    step s = .next (hostStore a v { s with agenda := rest })) ∧
  (∀ (s : State) (rest : List Action), s.agenda = .worker :: rest →
    step s = exec .workerStep { s with agenda := rest }) ∧
  (∀ s : State, s.agenda = [] →
    step s = if s.caller ≠ .idle then act .caller s
      else if s.answers ≠ [] then act (.answer 0) s else exec .workerStep s)

/-- R23: a CMD write runs the command that the word and ARG0 name; one that R68 decodes to INVALID is refused (R80,
U8); an ARG0 write only stores the word. -/
def Obligations.CmdWriteRunsCommand : Prop :=
  (∀ (s : State) (w : Word) (i : Instr), decodeCmd w s.arg0 = .ok i → writeReg 0x00 4 w s = exec i s) ∧
  (∀ (s : State) (w : Word), (∀ i, decodeCmd w s.arg0 ≠ .ok i) → writeReg 0x00 4 w s = .refused .invalidCommand) ∧
  (∀ (s : State) (w : Word), writeReg 0x04 4 w s = .next { s with arg0 := w })

/-! ### Lines and delay (spec/40_gpio_lines.md) -/

/-- R90: on legal masks GPIO_SET completes, drives each line of the two masks, disturbs no other, appends one
event and writes nothing else. -/
def Obligations.GpioSetDrivesMasks : Prop :=
  ∀ (s : State) (high low : Word), high &&& low = 0 → ownLines s.cfg (high ||| low) = true →
    ∃ t, exec (.gpioSet high low) s = .next t ∧
      (∀ n < 32, t.gpioOut.getLsbD n =
        if high.getLsbD n then true else if low.getLsbD n then false else s.gpioOut.getLsbD n) ∧
      t.trace = s.trace ++ [.lineSet high low] ∧
      { t with gpioOut := s.gpioOut, trace := s.trace } = s

/-- R81, R91, U1, U15: the line operations stop on a line in both masks, on a mask bit at or above NLINES and
on the reserved direction. -/
def Obligations.IllegalLineOperandsRefused : Prop :=
  (∀ (s : State) (high low : Word), high &&& low ≠ 0 →
    exec (.gpioSet high low) s = .refused .overlappingMasks) ∧
  (∀ (s : State) (high low : Word), high &&& low = 0 → ownLines s.cfg (high ||| low) = false →
    exec (.gpioSet high low) s = .refused .lineOutOfRange) ∧
  (∀ (s : State) (mask : Word), exec (.gpioDir 3 mask) s = .refused .reservedDirection) ∧
  (∀ (s : State) (direction : BitVec 2) (mask : Word), direction ≠ 3 → ownLines s.cfg mask = false →
    exec (.gpioDir direction mask) s = .refused .lineOutOfRange)

/-- R92: GPIO_GET completes in every state; every line at or above NLINES reads 0; the mask is the result and
the event; one draw is counted; the latches and directions stay. While the environment's script holds an answer,
the lines below NLINES read it (log 5: the script and the draw counter are the model's form of the oracle). -/
def Obligations.GpioGetSamplesLines : Prop :=
  ∀ s : State, ∃ t, exec .gpioGet s = .next t ∧
    (∀ n, s.cfg.nlines ≤ n → n < 32 → t.ret.getLsbD n = false) ∧
    (∀ w rest, s.lineScript = w :: rest → s.cfg.nlines ≤ 32 →
      t.lineScript = rest ∧ ∀ n < s.cfg.nlines, t.ret.getLsbD n = w.getLsbD n) ∧
    t.trace = s.trace ++ [.lineGet t.ret] ∧ t.draws = s.draws + 1 ∧ t.lineScript = s.lineScript.tail ∧
    { t with ret := s.ret, trace := s.trace, lineScript := s.lineScript, draws := s.draws } = s

/-- R94: GPIO_DIR completes on a legal mask and direction, gives each line of the mask the direction and no
other line another one, does not change the latch, and is idempotent: a line switched to an output drives the level
already in its latch, and an input nothing (R90 *Pins*; that an open-drain line at 1 is released is log 20, and that
every line the block owns supports open-drain is the model's choice, log 28). -/
def Obligations.GpioDirConfiguresLines : Prop :=
  ∀ (s : State) (direction : BitVec 2) (dir : LineDir) (mask : Word),
    dirOperand direction = some dir → ownLines s.cfg mask = true →
    ∃ t, exec (.gpioDir direction mask) s = .next t ∧
      (∀ n < 32, t.dirOf n = if mask.getLsbD n then dir else s.dirOf n) ∧
      (∀ n < 32, t.pinDrive n =
        if mask.getLsbD n then
          (match dir with
            | .input => none
            | .pushPull => some (s.gpioOut.getLsbD n)
            | .openDrain => if s.gpioOut.getLsbD n then none else some false)
        else s.pinDrive n) ∧
      t.trace = s.trace ++ [.lineDir mask dir] ∧
      { t with gpioPP := s.gpioPP, gpioOD := s.gpioOD, trace := s.trace } = s ∧
      ∃ u, exec (.gpioDir direction mask) t = .next u ∧ { u with trace := t.trace } = t

/-- R96: DELAY appends its lower bound when it is not 0, and reads and writes no state. -/
def Obligations.DelayAppendsLowerBound : Prop :=
  ∀ (s : State) (ns : Word), exec (.delay ns) s =
    .next { s with trace := if ns = 0 then s.trace else s.trace ++ [.delay ns] }

/-! ### Bit-level engine (spec/41_bit_engine.md) -/

/-- R101, R102: SHIFT_BYTE with CPHA = 0 has exactly the events of R102, bit 7 first; the first bit sampled is bit 7
of the result, and without `want_rx` no line is read and the result is 0. That it completes in every state, those
outside R104's entry condition (SCK idle) among them, is the model's reading (log 10, DEDUCED), and the script it
samples from is the model's form of the oracle (log 5). -/
def Obligations.ShiftByteClockPhase0 : Prop :=
  ∀ (s : State) (cpol wantRx : Bool) (tx : Byte),
    ∃ t, exec (.shiftByte false cpol wantRx tx) s = .next t ∧
      t.trace = s.trace ++ unitEvents (bitEvents0 s.cfg s.speed.softDelayNs wantRx cpol) (tx.setWidth 32) 8
        (s.samples 8) ∧
      (∀ j < 8, t.ret.getLsbD (7 - j) = (wantRx && ((s.samples 8).getD j 0).getLsbD s.cfg.miso)) ∧
      t.ret.toNat < 256 ∧
      t.lineScript = if wantRx then s.lineScript.drop 8 else s.lineScript

/-- R103 (the spec's own passage from general knowledge, log 13): SHIFT_BYTE with CPHA = 1 has exactly the events of
R103. That it completes wherever the engine supports the phase, outside R104's entry condition too, is the model's
reading (log 10, DEDUCED), and the script it samples from is the model's form of the oracle (log 5). -/
def Obligations.ShiftByteClockPhase1 : Prop :=
  ∀ (s : State) (cpol wantRx : Bool) (tx : Byte), s.cfg.cpha1Supported = true →
    ∃ t, exec (.shiftByte true cpol wantRx tx) s = .next t ∧
      t.trace = s.trace ++ unitEvents (bitEvents1 s.cfg s.speed.softDelayNs wantRx cpol) (tx.setWidth 32) 8
        (s.samples 8) ∧
      (∀ j < 8, t.ret.getLsbD (7 - j) = (wantRx && ((s.samples 8).getD j 0).getLsbD s.cfg.miso)) ∧
      t.ret.toNat < 256 ∧
      t.lineScript = if wantRx then s.lineScript.drop 8 else s.lineScript

/-- R104, R102 *State written*: every SHIFT_BYTE that completes leaves SCK at `cpol`, MOSI at the last bit and
BITCNT at 0, no other line changed, and nothing else written than the engine's registers, the trace and the
environment's position. -/
def Obligations.ShiftByteExitAndFrame : Prop :=
  ∀ (s t : State) (cpha cpol wantRx : Bool) (tx : Byte), s.cfg.wf = true →
    exec (.shiftByte cpha cpol wantRx tx) s = .next t →
      t.gpioOut.getLsbD s.cfg.sck = cpol ∧ t.gpioOut.getLsbD s.cfg.mosi = tx.getLsbD 0 ∧
      (∀ n < 32, n ≠ s.cfg.sck → n ≠ s.cfg.mosi → t.gpioOut.getLsbD n = s.gpioOut.getLsbD n) ∧
      t.bitCnt = 0 ∧ t.pos = { s.pos with ki := 0 } ∧
      { t with gpioOut := s.gpioOut, srTx := s.srTx, srRx := s.srRx, bitCnt := s.bitCnt, pos := s.pos,
               trace := s.trace, lineScript := s.lineScript, draws := s.draws, ret := s.ret } = s

/-- R106: SHIFT_WORD has exactly the events of R106, the command word in HW_CTRL, every bit sampled, and SCK idle at
the end. That it completes wherever the peripheral exists, on a slot that exists and a legal count, without R106's
precondition (select asserted, `mode_latch.cpha = 0`, a divider set, SCK idle), is the model's reading (log 10,
DEDUCED). -/
def Obligations.ShiftWordOnTheWire : Prop :=
  ∀ (s : State) (cs : Slot) (cpol : Bool) (count : BitVec 6) (tx : Word), s.cfg.engine = .hwShift →
    s.cfg.hasSlot cs = true → 1 ≤ count.toNat → count.toNat ≤ 32 →
    ∃ t, exec (.shiftWord cs cpol count tx) s = .next t ∧
      t.trace = s.trace ++ unitEvents (bitEventsHw s.cfg cpol) tx count.toNat (s.samples count.toNat) ∧
      (∀ j < count.toNat, t.ret.getLsbD (count.toNat - 1 - j) =
        ((s.samples count.toNat).getD j 0).getLsbD s.cfg.miso) ∧
      t.ret.toNat < 2 ^ count.toNat ∧
      t.hwCtrl = (encode (.shiftWord cs cpol count tx)).header ∧ t.bitCnt = 0 ∧
      { t with gpioOut := s.gpioOut, srTx := s.srTx, srRx := s.srRx, hwCtrl := s.hwCtrl, bitCnt := s.bitCnt,
               pos := s.pos, trace := s.trace, lineScript := s.lineScript, draws := s.draws,
               ret := s.ret } = s ∧
      (s.cfg.wf = true → t.gpioOut.getLsbD s.cfg.sck = cpol ∧ t.gpioOut.getLsbD s.cfg.mosi = tx.getLsbD 0)

/-- Where the shifts and SET_SPEED stop. R81 names a slot that does not exist and a count outside 1 to 32; that the
others (SHIFT_WORD on the bit-bang engine, CPHA 1 where it is not supported, SET_SPEED of 0) are refused is the
model's reading of the conditions in R103, R106 and R120 (log 27, DEDUCED). -/
def Obligations.EngineStops : Prop :=
  (∀ (s : State) (cs : Slot) (cpol : Bool) (count : BitVec 6) (tx : Word), s.cfg.engine = .bitBang →
    exec (.shiftWord cs cpol count tx) s = .refused .noShiftRegister) ∧
  (∀ (s : State) (cs : Slot) (cpol : Bool) (count : BitVec 6) (tx : Word), s.cfg.engine = .hwShift →
    s.cfg.hasSlot cs = false → exec (.shiftWord cs cpol count tx) s = .refused .noSuchSlot) ∧
  (∀ (s : State) (cs : Slot) (cpol : Bool) (count : BitVec 6) (tx : Word), s.cfg.engine = .hwShift →
    s.cfg.hasSlot cs = true → (count.toNat = 0 ∨ 32 < count.toNat) →
    exec (.shiftWord cs cpol count tx) s = .refused .reservedCount) ∧
  (∀ (s : State) (cpol wantRx : Bool) (tx : Byte), s.cfg.cpha1Supported = false →
    exec (.shiftByte true cpol wantRx tx) s = .refused .phaseNotSupported) ∧
  (∀ s : State, exec (.setSpeed 0) s = .refused .zeroSpeed)

/-- R110 corner case: a Transfer with `len = 0` returns 0 with no event at all. That an XFER issued by itself takes its
descriptor from memory without a read event, and needs no select asserted, is the model's reading (logs 17 and 10,
DEDUCED). -/
def Obligations.XferOfNothing : Prop :=
  ∀ (s : State) (d : Slot) (desc : Word), xferRuns s d desc → (transferAt desc s).len = 0 →
    exec (.xfer d desc) s = .next { s with ret := 0, pos := { s.pos with bi := 0 } }

/-- R110, R111, R112: XFER moves at most `len` bytes and exactly `len` without verify when the platform admits no
engine fault (log 15); every byte of memory outside the rx buffer, and all of memory in verify mode or without an rx
buffer, stays; and so does every field it is not said to write. That it completes on every legal descriptor without
R110's precondition, and takes the descriptor from memory without a read event, is the model's reading (logs 10 and
17, DEDUCED). -/
def Obligations.XferCompletesWithinRx : Prop :=
  ∀ (s : State) (d : Slot) (desc : Word), xferRuns s d desc →
    ∃ t, exec (.xfer d desc) s = .next t ∧
      t.ret.toNat ≤ (transferAt desc s).len.toNat ∧
      ((transferAt desc s).verify = false → s.cfg.hwFaults = [] → t.ret = (transferAt desc s).len) ∧
      (∀ a : Nat, outsideRx (transferAt desc s) a → t.mem.read a = s.mem.read a) ∧
      { t with mem := s.mem, gpioOut := s.gpioOut, srTx := s.srTx, srRx := s.srRx, hwCtrl := s.hwCtrl,
               bitCnt := s.bitCnt, pos := s.pos, trace := s.trace, lineScript := s.lineScript,
               draws := s.draws, ret := s.ret } = s

/-- R46, R101, R108, R110, on both paths: the `k`-th byte the slave answers, most significant bit first, is
stored at `rx_ptr + k`. What the slave answers is the environment's script, which must hold 8 answers a byte (log 5,
the model's form of the oracle). -/
def Obligations.XferStoresReceivedBytes : Prop :=
  ∀ (s t : State) (d : Slot) (desc : Word), exec (.xfer d desc) s = .next t →
    (transferAt desc s).verify = false → (transferAt desc s).rxPtr ≠ 0 → s.cfg.hwFaults = [] →
    s.cfg.wf = true → 8 * (transferAt desc s).len.toNat ≤ s.lineScript.length →
    ∀ k < (transferAt desc s).len.toNat,
      t.mem.read ((transferAt desc s).rxPtr.toNat + k) = some (s.slaveByte k)

/-- R46, R101, R107, R108, R110, on both paths: the levels MOSI is driven to are the bits of the tx buffer (zeros
without one), byte 0 first and most significant bit first; SCK makes two edges a bit. The bytes of the buffer are
those it holds before the Transfer (log 6 for one nothing has written), so the two buffers must not overlap at a
nonzero offset. Which path is taken: exactly under the conditions of R107 (`wordPath`) the whole 4-byte chunks go
through SHIFT_WORD, so that only the `len mod 4` bytes left over have the delays of the byte loop, HW_CTRL holds the
command word of R77, and MISO is sampled for every bit of a chunk even without an rx buffer; else every byte goes
through the byte loop and HW_CTRL stays. -/
def Obligations.XferSendsTxBytes : Prop :=
  (∀ (s t : State) (d : Slot) (desc : Word), exec (.xfer d desc) s = .next t → s.cfg.wf = true →
    s.raced = [] → buffersApart (transferAt desc s) →
    ((transferAt desc s).verify = false → s.cfg.hwFaults = [] →
      levelsSince s.cfg.mosi s t = s.dataLevels (transferAt desc s) (transferAt desc s).len.toNat ∧
      levelsSince s.cfg.sck s t = clockLevels s.latch.cpol (transferAt desc s).len.toNat)) ∧
  (∀ (s t : State) (d : Slot) (desc : Word), exec (.xfer d desc) s = .next t →
    (transferAt desc s).verify = false → s.cfg.hwFaults = [] →
    delaysSince s t = byteDelays s.speed.softDelayNs
      (if wordPath s d (transferAt desc s) then (transferAt desc s).len.toNat % 4
        else (transferAt desc s).len.toNat) ∧
    t.hwCtrl = (if wordPath s d (transferAt desc s) then (encode (.shiftWord d s.latch.cpol 32 0)).header
      else s.hwCtrl) ∧
    t.lineScript = s.lineScript.drop
      (if (transferAt desc s).rxPtr ≠ 0 then 8 * (transferAt desc s).len.toNat
        else if wordPath s d (transferAt desc s) then 32 * ((transferAt desc s).len.toNat / 4) else 0))

/-- R111: in verify mode XFER returns the index of the first byte whose received value differs from the
expected one at `rx_ptr`, or `len` when none differs, and stores nothing. The received bytes are those of the
environment's script, which must hold 8 answers a byte (log 5, the model's form of the oracle). On the wire the bytes
before it and the mismatching one are clocked whole and nothing after them: MOSI carries those bytes of the tx buffer,
or zeros, SCK two edges a bit, one answer a bit is used up, and the delays are those of the byte loop; HW_CTRL
stays. -/
def Obligations.VerifyStopsAtFirstMismatch : Prop :=
  (∀ (s t : State) (d : Slot) (desc : Word), exec (.xfer d desc) s = .next t →
    (transferAt desc s).verify = true → s.cfg.wf = true → s.raced = [] →
    8 * (transferAt desc s).len.toNat ≤ s.lineScript.length →
      t.mem = s.mem ∧ t.ret.toNat ≤ (transferAt desc s).len.toNat ∧
      (∀ k < t.ret.toNat,
        s.slaveByte k = s.memByte ((transferAt desc s).rxPtr + BitVec.ofNat 32 k)) ∧
      (t.ret.toNat < (transferAt desc s).len.toNat →
        s.slaveByte t.ret.toNat ≠ s.memByte ((transferAt desc s).rxPtr + t.ret))) ∧
  (∀ (s t : State) (d : Slot) (desc : Word), exec (.xfer d desc) s = .next t →
    (transferAt desc s).verify = true → s.cfg.wf = true → s.raced = [] →
    let clocked := min (t.ret.toNat + 1) (transferAt desc s).len.toNat
    levelsSince s.cfg.sck s t = clockLevels s.latch.cpol clocked ∧
    levelsSince s.cfg.mosi s t = s.dataLevels (transferAt desc s) clocked ∧
    delaysSince s t = byteDelays s.speed.softDelayNs clocked ∧
    t.lineScript = s.lineScript.drop (8 * clocked) ∧ t.hwCtrl = s.hwCtrl)

/-! ### Speed calculator (spec/42_speed_calculator.md) -/

/-- R121, R123: SET_SPEED completes for every `hz >= 1`; the delay is `floor(10^9/(2*hz))` less the overhead,
never below 0; only the three fields of the speed state are written. -/
def Obligations.SetSpeedEffect : Prop :=
  ∀ (s : State) (hz : Word), hz ≠ 0 →
    ∃ t, exec (.setSpeed hz) s = .next t ∧ t.speed.curHz = some hz ∧
      t.speed.softDelayNs.toNat = 1000000000 / (2 * hz.toNat) - s.cfg.fixedOverheadNs.toNat ∧
      t.speed.divider = selectDivider s.cfg hz ∧ { t with speed := s.speed } = s

/-- R127: a slower request never gives a shorter delay nor a smaller divider, `none` counted as larger than
every divider. -/
def Obligations.SpeedMonotone : Prop :=
  ∀ (c : Config) (hz1 hz2 : Word), hz1.toNat < hz2.toNat →
    (1 ≤ hz1.toNat → (softDelay c hz2).toNat ≤ (softDelay c hz1).toNat) ∧
    (∀ d1, selectDivider c hz1 = some d1 →
      ∃ d2, selectDivider c hz2 = some d2 ∧ d2.toNat ≤ d1.toNat)

/-- R122: the divider found is in range, its frequency is not above the request and every faster candidate's
is; none is found exactly when there is no divider unit or every candidate is too fast. -/
def Obligations.DividerIsFirstNotExceeding : Prop :=
  ∀ (c : Config) (hz : Word), c.divMin.toNat ≤ c.divMax.toNat →
    (∀ d, selectDivider c hz = some d ↔
      (c.hasDivider = true ∧ c.divMin.toNat ≤ d.toNat ∧ d.toNat ≤ c.divMax.toNat ∧
        c.divFreq d ≤ hz.toNat ∧
        ∀ e : BitVec 16, c.divMin.toNat ≤ e.toNat → e.toNat < d.toNat → hz.toNat < c.divFreq e)) ∧
    (selectDivider c hz = none ↔
      (c.hasDivider = false ∨
        ∀ e : BitVec 16, c.divMin.toNat ≤ e.toNat → e.toNat ≤ c.divMax.toNat → hz.toNat < c.divFreq e))

/-- R126, software path: with line writes of at least the overhead, two half periods fall short of the exact
period by less than 2 ns, whether or not the delay is clamped, and not at all when `2*hz` divides 10^9. -/
def Obligations.SoftPeriodWithinTwoNs : Prop :=
  ∀ (c : Config) (hz : Word) (latency : Nat), 1 ≤ hz.toNat → c.fixedOverheadNs.toNat ≤ latency →
    1000000000 < hz.toNat * (2 * ((softDelay c hz).toNat + latency) + 2) ∧
    (2 * hz.toNat ∣ 1000000000 → 1000000000 ≤ hz.toNat * (2 * ((softDelay c hz).toNat + latency)))

/-! ### Sequencer (spec/43_cs_sequencer.md) -/

/-- R136: CS_ASSERT has exactly its events; SCK is at the device's idle level and the select at its active level; only
the mode latch, the latch of the lines and the trace are written, and no line but SCK, the select and the slot's hook
lines. That it completes on every registered slot, without R136's precondition (no select active), is the model's
reading (log 10, DEDUCED). -/
def Obligations.CsAssertEffect : Prop :=
  ∀ (s : State) (d : Slot), s.ready d = true →
    ∃ t, exec (.csAssert d) s = .next t ∧ t.trace = s.trace ++ assertEvents s d ∧
      t.latch = { cpol := (s.dev d).cpol, cpha := (s.dev d).cpha } ∧
      { t with latch := s.latch, gpioOut := s.gpioOut, trace := s.trace } = s ∧
      (s.cfg.wf = true →
        t.gpioOut.getLsbD s.cfg.sck = (s.dev d).cpol ∧ t.csActive d = true ∧
        ∀ n < 32, n ≠ s.cfg.sck → n ≠ (s.cfg.slot d).cs → (s.cfg.slot d).auxHigh.getLsbD n = false →
          (s.cfg.slot d).auxLow.getLsbD n = false → t.gpioOut.getLsbD n = s.gpioOut.getLsbD n)

/-- R137: CS_DEASSERT has exactly its events; the select is inactive; only the latch of the lines and the trace are
written, and no line but the select and the slot's hook lines, SCK and MOSI among those that stay. That it completes
on every registered slot, without R137's precondition (its select active), is the model's reading (log 10,
DEDUCED). -/
def Obligations.CsDeassertEffect : Prop :=
  ∀ (s : State) (d : Slot), s.ready d = true →
    ∃ t, exec (.csDeassert d) s = .next t ∧ t.trace = s.trace ++ deassertEvents s d ∧
      { t with gpioOut := s.gpioOut, trace := s.trace } = s ∧
      (s.cfg.wf = true → t.csActive d = false ∧
        t.gpioOut.getLsbD s.cfg.sck = s.gpioOut.getLsbD s.cfg.sck ∧
        t.gpioOut.getLsbD s.cfg.mosi = s.gpioOut.getLsbD s.cfg.mosi ∧
        ∀ n < 32, n ≠ (s.cfg.slot d).cs → (s.cfg.slot d).auxHigh.getLsbD n = false →
          (s.cfg.slot d).auxLow.getLsbD n = false → (s.cfg.slot d).strobe.getLsbD n = false →
          t.gpioOut.getLsbD n = s.gpioOut.getLsbD n)

/-- R81, R136, R137, R139, R156, R157, R164, U4: the operations that name a registered slot stop on one that does not
exist or is not registered; XFER and COMPLETE, and SHIFT_WORD where the peripheral exists, stop on one that does not
exist. -/
def Obligations.UnregisteredSlotRefused : Prop :=
  (∀ (s : State) (d : Slot) (desc m : Word), s.cfg.hasSlot d = false →
    exec (.xfer d desc) s = .refused .noSuchSlot ∧ exec (.complete d m) s = .refused .noSuchSlot ∧
    (s.cfg.engine = .hwShift → ∀ (cpol : Bool) (count : BitVec 6) (tx : Word),
      exec (.shiftWord d cpol count tx) s = .refused .noSuchSlot)) ∧
  (∀ (s : State) (d : Slot) (m : Word), s.misconfigured = false → s.ready d = false →
    ∃ r, (r = .noSuchSlot ∨ r = .slotNotRegistered) ∧
      exec (.csAssert d) s = .refused r ∧ exec (.csDeassert d) s = .refused r ∧
      exec (.processMsg d m) s = .refused r ∧ exec (.submit d m) s = .refused r ∧
      exec (.submitAtomic d m) s = .refused r)

/-- R138: a Message with no Transfers completes, releases whatever select is held, asserts none, and has status
0 and length 0; nothing else than the latch, the trace, the two result words and `seq` is written. That a
PROCESS_MSG issued by itself takes `h` from `held_cs` and leaves its results in `seq`, whatever the sequencer holds,
is the model's reading (logs 25 and 10, DEDUCED); that the position stays as it was is its choice (log 29). -/
def Obligations.EmptyMessageReleasesSelect : Prop :=
  ∀ (s : State) (d : Slot) (m : Word), messageRuns s d m → s.raced = [] → s.wordAt (m + 4) = 0 →
    ∃ t, exec (.processMsg d m) s = .next t ∧
      t.trace = s.trace ++ [.memRead m 4 (s.wordAt m), .memRead (m + 4) 4 0] ++ releaseEvents s s.heldCs
        ++ [.memWrite (m + 0x10) 4 0, .memWrite (m + 0x14) 4 0] ∧
      t.seq = { held := none, status := 0, actual := 0 } ∧
      (∀ a : Nat, a < m.toNat + 0x10 ∨ m.toNat + 0x18 ≤ a → t.mem.read a = s.mem.read a) ∧
      (∀ a : Nat, m.toNat + 0x10 ≤ a → a < m.toNat + 0x18 → t.mem.read a = some 0) ∧
      { t with mem := s.mem, trace := s.trace, gpioOut := s.gpioOut, seq := s.seq, draws := s.draws } = s

/-- R44, R56, R139, R140, R143: after every PROCESS_MSG that completes, the Message's `status` and
`actual_length` words hold what its caller is given, written last and in this order; the status is 0 or 1; a
failed Message holds no select; a held select is the Message's device's. -/
def Obligations.ResultFieldsWritten : Prop :=
  ∀ (s t : State) (d : Slot) (m : Word), exec (.processMsg d m) s = .next t →
    (∀ j < 4, t.mem.read (m.toNat + 0x10 + j) = some (t.seq.status.extractLsb' (8 * j) 8)) ∧
    (∀ j < 4, t.mem.read (m.toNat + 0x14 + j) = some (t.seq.actual.extractLsb' (8 * j) 8)) ∧
    (∃ before, t.trace = before ++
      [.memWrite (m + 0x10) 4 t.seq.status, .memWrite (m + 0x14) 4 t.seq.actual]) ∧
    (t.seq.status = 0 ∨ t.seq.status = 1) ∧ (t.seq.status = 1 → t.seq.held = none) ∧
    (∀ e, t.seq.held = some e → e = d)

/-- R44, R139 to R141, R143, R145, R192: a well-formed Message with any number of Transfers completes, in every state of the
sequencer, of the worker and of the atomic caller. `Served` says what it did: which Transfers were executed, every
edge of its select in order (the toggle of `cs_change` between two Transfers, the release after a short or a last
one), the sum of the counts, the status and the held select, and that each executed Transfer is an XFER, with every
event between them, the bytes it stores and the bits it sends (`Transfers`; the answers are the script's, log 5). With one Transfer these are the two edges of R145, spelt
out in the second part. In the third a verify mismatch at the first byte ends the Message whatever its later
descriptors hold (R192 e; the byte received is that of the environment's script, log 5). That a PROCESS_MSG issued by itself runs where R139's precondition on `inflight` fails, takes
`h` from `held_cs` and leaves its results in `seq`, is the model's reading (logs 25 and 10, DEDUCED). -/
def Obligations.SingleTransferSelectEdges : Prop :=
  (∀ (s : State) (d : Slot) (m : Word), messageServes s d m →
    ∃ t gots, exec (.processMsg d m) s = .next t ∧ Served s t d m gots) ∧
  (∀ (s : State) (d : Slot) (m : Word), messageServes s d m → s.transferCount m = 1 →
    ∃ t, exec (.processMsg d m) s = .next t ∧
      t.seq.actual.toNat ≤ (transferAt (s.wordAt m) s).len.toNat ∧
      (t.seq.status = 0 ↔ t.seq.actual = (transferAt (s.wordAt m) s).len) ∧
      levelsSince (s.cfg.slot d).cs s t =
        (if s.heldCs = some d then [] else [(s.dev d).csHigh]) ++
        (if t.seq.status = 0 ∧ (transferAt (s.wordAt m) s).csChange = true then []
          else [!(s.dev d).csHigh]) ∧
      t.seq.held = (if t.seq.status = 0 ∧ (transferAt (s.wordAt m) s).csChange = true then some d else none) ∧
      t.speed.curHz = some (effHz d (transferAt (s.wordAt m) s) s)) ∧
  (∀ (s : State) (d : Slot) (m : Word), MessageStarts s d m → descriptorOk s m 0 →
    (s.transferOf m 0).verify = true → (s.transferOf m 0).len ≠ 0 → 8 ≤ s.lineScript.length →
    s.slaveByte 0 ≠ s.memByte (s.transferOf m 0).rxPtr →
    ∃ t, exec (.processMsg d m) s = .next t ∧ Served s t d m [0])

/-- R142: a Message with Transfers for another device than the held one releases that one's select, teardown
included, right after its two first reads and before anything else. -/
def Obligations.DeviceSwitchReleasesFirst : Prop :=
  ∀ (s t : State) (d e : Slot) (m : Word), s.heldCs = some e → e ≠ d → s.raced = [] →
    s.wordAt (m + 4) ≠ 0 → exec (.processMsg d m) s = .next t →
    ∃ later, t.trace = s.trace ++ [.memRead m 4 (s.wordAt m), .memRead (m + 4) 4 (s.wordAt (m + 4))]
      ++ deassertEvents s e ++ later

/-- R41, R56, R139 *State written*: what PROCESS_MSG leaves alone. Whatever the operation, a byte of memory changes
only where a MemWrite event of it stores; for PROCESS_MSG those are the two result words and the rx buffers of its
Transfers, however many, when none of them stores into the descriptor of a later one. -/
def Obligations.MessageFrame : Prop :=
  (∀ (s t : State) (d : Slot) (m : Word), exec (.processMsg d m) s = .next t →
    { t with mem := s.mem, gpioOut := s.gpioOut, srTx := s.srTx, srRx := s.srRx, hwCtrl := s.hwCtrl,
             bitCnt := s.bitCnt, pos := s.pos, latch := s.latch, speed := s.speed, trace := s.trace,
             lineScript := s.lineScript, draws := s.draws, seq := s.seq } = s) ∧
  (∀ (i : Instr) (s t : State), exec i s = .next t → ∀ a : Nat,
    (∀ e ∈ t.trace.drop s.trace.length, storesAt a e = false) → t.mem.read a = s.mem.read a) ∧
  (∀ (s t : State) (d : Slot) (m : Word), s.raced = [] → descriptorsKept s m →
    exec (.processMsg d m) s = .next t → ∀ a : Nat,
    (a < m.toNat + 0x10 ∨ m.toNat + 0x18 ≤ a) → (∀ k < s.transferCount m, outsideRx (s.transferOf m k) a) →
    t.mem.read a = s.mem.read a)

/-! ### Dispatcher and host commands (spec/44_queue_dispatcher.md) -/

/-- R155: an accepted REGDEV registers the slot with the fields of the command, latches the inactive level,
drives the line and answers the handle; nothing else is written. -/
def Obligations.RegdevRegistersSlot : Prop :=
  ∀ (s : State) (d : Slot) (bpw mode : Byte) (hz : Word), s.misconfigured = false →
    s.cfg.hasSlot d = true → (s.dev d).valid = false →
    mode.extractLsb' 3 5 = 0 → (mode.getLsbD 0 = true → s.cfg.cpha1Supported = true) → bpw = 8 → hz ≠ 0 →
    ∃ t, exec (.regdev d bpw mode hz) s = .next t ∧
      t.dev d = { valid := true, maxSpeedHz := hz, cpha := mode.getLsbD 0, cpol := mode.getLsbD 1,
                  csHigh := mode.getLsbD 2, bpw := 8 } ∧
      (∀ e, e ≠ d → t.dev e = s.dev e) ∧ t.result = d.setWidth 32 ∧
      t.trace = s.trace ++ [levelEvent (s.cfg.slot d).cs (!mode.getLsbD 2),
        .lineDir (bit (s.cfg.slot d).cs) .pushPull] ∧
      (s.cfg.wf = true → t.csActive d = false ∧ t.dirOf (s.cfg.slot d).cs = .pushPull) ∧
      (∀ n < 32, n ≠ (s.cfg.slot d).cs →
        t.gpioOut.getLsbD n = s.gpioOut.getLsbD n ∧ t.dirOf n = s.dirOf n) ∧
      { t with devs := s.devs, gpioOut := s.gpioOut, gpioPP := s.gpioPP, gpioOD := s.gpioOD,
               trace := s.trace, result := s.result } = s

/-- R155, R156, R182: REGDEV of an unsupported mode, width or speed answers UnsupportedMode and changes nothing
else; on a registered slot, or one that does not exist, it stops. -/
def Obligations.RegdevRejects : Prop :=
  ∀ (s : State) (d : Slot) (bpw mode : Byte) (hz : Word), s.misconfigured = false →
    (s.cfg.hasSlot d = true → (s.dev d).valid = false →
      (mode.extractLsb' 3 5 ≠ 0 ∨ (mode.getLsbD 0 = true ∧ s.cfg.cpha1Supported = false) ∨ bpw ≠ 8 ∨
        hz = 0) →
      exec (.regdev d bpw mode hz) s = .next { s with result := 0x80000003 }) ∧
    (s.cfg.hasSlot d = true → (s.dev d).valid = true →
      exec (.regdev d bpw mode hz) s = .refused .slotAlreadyRegistered) ∧
    (s.cfg.hasSlot d = false → exec (.regdev d bpw mode hz) s = .refused .noSuchSlot)

/-- R183: a misconfigured controller answers every host command with code 2 and no other effect. -/
def Obligations.MisconfiguredAnswersOnly : Prop :=
  ∀ (s : State) (i : Instr), s.misconfigured = true →
    (∃ d bpw mode hz, i = .regdev d bpw mode hz) ∨ (∃ d m, i = .submit d m) ∨
      (∃ d m, i = .submitAtomic d m) →
    exec i s = .next { s with result := 0x80000002 }

/-- R157, R158, R58: SUBMIT completes on a registered slot and a legal address when the queue has room (always,
when unbounded, R168): it appends to the tail, wakes the worker, answers 0, and reads and writes nothing
else. -/
def Obligations.SubmitAppendsToTail : Prop :=
  ∀ (s : State) (d : Slot) (m : Word), s.misconfigured = false → s.ready d = true →
    descriptorAddress m = true → (∀ n, s.cfg.queueDepth = some n → s.queue.length < n) →
    exec (.submit d m) s =
      .next { s with queue := s.queue ++ [{ msg := m, dev := d }], busy := true, result := 0 }

/-- R43, R48, R157, R164, R166, R168, R192, U3, U5, U6: where SUBMIT and SUBMIT_ATOMIC stop on a registered slot; where
XFER, PROCESS_MSG and COMPLETE stop on a bad address or a malformed descriptor; and that a Message stops on nothing
else than a transfer descriptor that R48 does not allow, and on the first one it reaches. The finite completion FIFO
is log 16, the descriptor of an XFER issued by itself log 17, where a Message is refused log 11, and that a
PROCESS_MSG issued by itself runs whatever the sequencer holds, with `h` from `held_cs` and its results in `seq`,
logs 10 and 25 (all DEDUCED). -/
def Obligations.SubmissionStops : Prop :=
  (∀ (s : State) (d : Slot) (m : Word), s.misconfigured = false → s.ready d = true →
    (descriptorAddress m = false →
      exec (.submit d m) s = .refused .badDescriptorAddress ∧
      exec (.submitAtomic d m) s = .refused .badDescriptorAddress) ∧
    (descriptorAddress m = true →
      (∀ n, s.cfg.queueDepth = some n → n ≤ s.queue.length → exec (.submit d m) s = .refused .queueFull) ∧
      (s.inflight.isSome = true → exec (.submitAtomic d m) s = .refused .atomicRace))) ∧
  (∀ (s : State) (d : Slot) (a : Word), s.cfg.hasSlot d = true → descriptorAddress a = false →
    exec (.xfer d a) s = .refused .badDescriptorAddress ∧ exec (.complete d a) s = .refused .badDescriptorAddress ∧
    ((s.dev d).valid = true → exec (.processMsg d a) s = .refused .badDescriptorAddress)) ∧
  (∀ (s : State) (d : Slot) (a : Word), s.cfg.hasSlot d = true → descriptorAddress a = true →
    (rangeOk s.cfg a 20 = false ∨ (transferAt a s).ok s.cfg = false →
      exec (.xfer d a) s = .refused .malformedDescriptor) ∧
    (rangeOk s.cfg a 24 = false →
      exec (.complete d a) s = .refused .malformedDescriptor ∧
      ((s.dev d).valid = true → exec (.processMsg d a) s = .refused .malformedDescriptor)) ∧
    (rangeOk s.cfg a 24 = true → ∀ n, s.cfg.queueDepth = some n → n ≤ s.comp.length →
      exec (.complete d a) s = .refused .completionFull)) ∧
  (∀ (s : State) (d : Slot) (m : Word), messageRuns s d m → s.raced = [] → s.transferCount m ≠ 0 →
    transfersOk (s.wordAt m) (s.transferCount m) = false →
    exec (.processMsg d m) s = .refused .malformedDescriptor) ∧
  (∀ (s : State) (d : Slot) (m : Word), MessageStarts s d m →
    (∃ t gots, exec (.processMsg d m) s = .next t ∧ Served s t d m gots ∧
      ∀ k < gots.length, descriptorOk s m k) ∨
    (∃ k < s.transferCount m, ¬ descriptorOk s m k ∧ (∀ j < k, descriptorOk s m j) ∧
      exec (.processMsg d m) s = .refused .malformedDescriptor)) ∧
  (∀ (s : State) (d : Slot) (m : Word) (k : Nat), MessageStarts s d m → s.cfg.hwFaults = [] →
    k < s.transferCount m → (∀ j < k, (s.transferOf m j).verify = false) → ¬ descriptorOk s m k →
    exec (.processMsg d m) s = .refused .malformedDescriptor)

/-- R160, R202: a turn that finds the queue empty writes back what the previous one owed, clears `busy`, and does
nothing else; a turn while a SUBMIT_ATOMIC has a Message in the sequencer waits. That a WORKER_STEP of a sleeping
worker answers the state itself is the model's reading of R160's "enabled when" (log 12, DEDUCED). -/
def Obligations.IdleWorkerTurns : Prop :=
  (∀ s : State, s.busy = false → exec .workerStep s = .next s) ∧
  (∀ (s : State) (h : Option Slot), s.busy = true → s.queue = [] → s.worker = .owes h →
    exec .workerStep s =
      .next { s with heldCs := h, inflight := none, worker := .atStart, busy := false }) ∧
  (∀ s : State, s.busy = true → s.queue = [] → s.worker = .atStart → s.inflight = none →
    exec .workerStep s = .next { s with busy := false }) ∧
  (∀ s : State, s.worker = .atStart → s.inflight.isSome = true → exec .workerStep s = .next s)

/-- R161, R169: the entry taken is the oldest of its device; it is of the held device when the queue has one of
that device, and the head otherwise; the others keep their order. -/
def Obligations.SelectionPrefersHeldDevice : Prop :=
  ∀ (queue : List Entry) (held : Option Slot), queue ≠ [] →
    ∃ e older newer, takeNext queue held = some (e, older ++ newer) ∧ queue = older ++ e :: newer ∧
      (∀ x ∈ older, x.dev ≠ e.dev) ∧
      (∀ h, held = some h → (∃ x ∈ queue, x.dev = h) → e.dev = h) ∧
      ((∀ h, held = some h → ∀ x ∈ queue, x.dev ≠ h) → older = [])

/-- R160, R162, R30, R52: the locked region of a turn takes the selected entry, with the previous turn's write-back
first, and nothing else; a turn is that region and then the rest, between which other agents may move. A turn that
takes an entry and completes, or the rest of one, serves exactly that Message: it is in the sequencer, the rest stays
queued, `held_cs` still shows the value from before it, its record is appended with the status and length PROCESS_MSG
wrote, and `h'` waits for the next turn. That the locked region leaves the position as it was is the model's choice
(log 29). -/
def Obligations.TurnServesOneMessage : Prop :=
  (∀ (s : State) (e : Entry) (rest : List Entry), s.busy = true → (writeBack s).inflight = none →
    takeNext s.queue (writeBack s).heldCs = some (e, rest) →
    act .workerLock s = .next { writeBack s with queue := rest, inflight := some e, worker := .serving } ∧
    exec .workerStep s =
      exec .workerStep { writeBack s with queue := rest, inflight := some e, worker := .serving }) ∧
  (∀ (s t : State) (e : Entry), s.busy = true → s.worker = .serving → s.inflight = some e →
    exec .workerStep s = .next t →
      t.inflight = some e ∧ t.queue = s.queue ∧ t.busy = true ∧ t.heldCs = s.heldCs ∧
      t.worker = .owes t.seq.held ∧
      (∃ r : CompRec, t.comp = s.comp ++ [r] ∧ r.msg = e.msg ∧ r.status = t.seq.status ∧
        r.actualLength = t.seq.actual ∧ t.trace.getLast? = some (.complete r)) ∧
      t.devs = s.devs ∧ t.result = s.result ∧ t.arg0 = s.arg0 ∧ t.compIe = s.compIe ∧
      t.gpioPP = s.gpioPP ∧ t.gpioOD = s.gpioOD ∧ t.cfg = s.cfg ∧ t.misconfigured = s.misconfigured ∧
      t.caller = s.caller ∧ t.answers = s.answers) ∧
  (∀ (s t : State) (e : Entry) (rest : List Entry), s.busy = true → (writeBack s).inflight = none →
    takeNext s.queue (writeBack s).heldCs = some (e, rest) → exec .workerStep s = .next t →
      t.inflight = some e ∧ t.queue = rest ∧ t.busy = true ∧ t.heldCs = (writeBack s).heldCs ∧
      t.worker = .owes t.seq.held ∧
      (∃ r : CompRec, t.comp = s.comp ++ [r] ∧ r.msg = e.msg ∧ r.status = t.seq.status ∧
        r.actualLength = t.seq.actual ∧ t.trace.getLast? = some (.complete r)) ∧
      t.devs = s.devs ∧ t.result = s.result ∧ t.arg0 = s.arg0 ∧ t.compIe = s.compIe ∧
      t.gpioPP = s.gpioPP ∧ t.gpioOD = s.gpioOD ∧ t.cfg = s.cfg ∧ t.misconfigured = s.misconfigured)

/-- R138, R160, R162: a turn completes with every well-formed Message. With Transfers it is PROCESS_MSG under the
`held_cs` of the locked region, which serves the Message (`Served`), then COMPLETE, and `h'` waits; both for a turn
from its locked region on and for the rest of one. With no Transfers it completes with status 0 and length 0 and
returns no held select. -/
def Obligations.WorkerServesReleaseMessage : Prop :=
  (∀ (s : State) (e : Entry), s.busy = true → s.worker = .serving → s.inflight = some e →
    messageServes s e.dev e.msg → (∀ n, s.cfg.queueDepth = some n → s.comp.length < n) →
    ∃ u v gots, exec (.processMsg e.dev e.msg) s = .next u ∧ Served s u e.dev e.msg gots ∧
      exec (.complete e.dev e.msg) u = .next v ∧
      exec .workerStep s = .next { v with worker := .owes u.seq.held }) ∧
  (∀ (s : State) (e : Entry) (rest : List Entry), s.busy = true → (writeBack s).inflight = none →
    takeNext s.queue (writeBack s).heldCs = some (e, rest) → messageServes s e.dev e.msg →
    (∀ n, s.cfg.queueDepth = some n → s.comp.length < n) →
    let locked : State := { writeBack s with queue := rest, inflight := some e, worker := .serving }
    ∃ u v gots, exec (.processMsg e.dev e.msg) locked = .next u ∧ Served locked u e.dev e.msg gots ∧
      exec (.complete e.dev e.msg) u = .next v ∧
      exec .workerStep s = .next { v with worker := .owes u.seq.held }) ∧
  (∀ (s : State) (e : Entry) (rest : List Entry), Inv s → s.busy = true →
    takeNext s.queue (writeBack s).heldCs = some (e, rest) → (writeBack s).inflight = none → s.raced = [] →
    messageOk s.cfg e.msg = .ok () → s.wordAt (e.msg + 4) = 0 →
    (∀ n, s.cfg.queueDepth = some n → s.comp.length < n) →
    ∃ t, exec .workerStep s = .next t ∧ t.seq = { held := none, status := 0, actual := 0 } ∧
      t.selected = none ∧ t.inflight = some e ∧ t.queue = rest)

/-- R162, R57: COMPLETE completes on a legal descriptor when the FIFO has room: it reads `callback` and `context`
and appends the record with the values PROCESS_MSG wrote; with no byte raced nothing else is written; the marks of
that Message's bytes go, unless it is queued again, and no other Message's (log 7). That a COMPLETE issued by itself
runs on any existing slot and takes status and length from `seq` is the model's reading (log 25, DEDUCED). -/
def Obligations.CompleteAppendsRecord : Prop :=
  (∀ (s : State) (d : Slot) (m : Word), s.cfg.hasSlot d = true → messageOk s.cfg m = .ok () →
    s.raced = [] → (∀ n, s.cfg.queueDepth = some n → s.comp.length < n) →
    let r : CompRec := { msg := m, callback := s.wordAt (m + 8), context := s.wordAt (m + 12),
                         status := s.seq.status, actualLength := s.seq.actual }
    exec (.complete d m) s =
      .next { s with
        comp := s.comp ++ [r], draws := s.draws + 2
        trace := s.trace ++ [.memRead (m + 8) 4 (s.wordAt (m + 8)),
          .memRead (m + 12) 4 (s.wordAt (m + 12)), .complete r] }) ∧
  (∀ (s t : State) (d : Slot) (m : Word), exec (.complete d m) s = .next t →
    ∀ (x a : Word), (x, a) ∈ t.raced ↔ (x, a) ∈ s.raced ∧ (x = m → ∃ e ∈ s.queue, e.msg = m))

/-- R164, R52: the parts of SUBMIT_ATOMIC, between which other agents may move, and that the command issued to its
end is these parts in order: the admission test, PROCESS_MSG on the caller's context, the write-back, RESULT. It
leaves the queue, `busy`, the completion FIFO and the device table alone, ends with no Message in the sequencer and
the Message's own held select, and RESULT carries the Message's status. It completes with every well-formed Message,
with Transfers (`Served`) and without. That the admission leaves the position as it was is the model's choice
(log 29). -/
def Obligations.AtomicBypassesQueue : Prop :=
  (∀ (s : State) (header arg0 : Word) (d : Slot) (hazard : Bool),
    decode { header := header, arg0 := arg0, arg1 := 0 } = .ok (.submitAtomic d arg0) → s.misconfigured = false →
    s.ready d = true → descriptorAddress arg0 = true → s.inflight = none →
    (hazard = true ↔ s.busy = true ∨ ∃ e, s.heldCs = some e ∧ e ≠ d) →
    act (.begin header arg0) s = .next { s with
      arg0 := arg0, inflight := some { msg := arg0, dev := d }, caller := .admitted hazard }) ∧
  (∀ (s : State) (r : SeqResult), s.caller = .processed r → s.raced = [] →
    act .caller s = .next { s with
      heldCs := r.held, inflight := none, caller := .idle
      answers := s.answers ++ [if r.status = 0 then 0 else 0x80000000 ||| r.status] }) ∧
  (∀ (s : State) (i : Nat) (w : Word), s.answers[i]? = some w →
    act (.answer i) s = .next { s with result := w, answers := s.answers.eraseIdx i }) ∧
  (∀ (s a b c : State) (d : Slot) (m : Word), s.misconfigured = false → beginAtomic d m s = .next a →
    act .caller a = .next b → act .caller b = .next c →
    exec (.submitAtomic d m) s = act (.answer s.answers.length) c) ∧
  (∀ (s t : State) (d : Slot) (m : Word), s.misconfigured = false → exec (.submitAtomic d m) s = .next t →
    t.queue = s.queue ∧ t.busy = s.busy ∧ t.comp = s.comp ∧ t.devs = s.devs ∧ t.worker = s.worker ∧
    t.inflight = none ∧ t.heldCs = t.seq.held ∧ t.caller = .idle ∧ t.answers = s.answers ∧
    t.result = (if t.seq.status = 0 then 0 else 0x80000000 ||| t.seq.status) ∧
    t.arg0 = s.arg0 ∧ t.compIe = s.compIe ∧ t.gpioPP = s.gpioPP ∧ t.gpioOD = s.gpioOD ∧ t.cfg = s.cfg) ∧
  (∀ (s : State) (d : Slot) (m : Word) (hazard : Bool), s.misconfigured = false → s.inflight = none →
    messageServes s d m → (hazard = true ↔ s.busy = true ∨ ∃ e, s.heldCs = some e ∧ e ≠ d) →
    let admitted : State := { s with inflight := some { msg := m, dev := d }, caller := .admitted hazard }
    let start : State := if hazard then { releaseHeld s.heldCs admitted with heldCs := none } else admitted
    ∃ u gots, exec (.processMsg d m) start = .next u ∧ Served start u d m gots ∧
      exec (.submitAtomic d m) s = .next { u with
        heldCs := u.seq.held, inflight := none, caller := .idle
        result := if u.seq.status = 0 then 0 else 0x80000000 ||| u.seq.status }) ∧
  (∀ (s : State) (d : Slot) (m : Word), s.misconfigured = false → messageRuns s d m → s.inflight = none →
    s.raced = [] → s.wordAt (m + 4) = 0 →
    ∃ t, exec (.submitAtomic d m) s = .next t ∧ t.result = 0 ∧ t.heldCs = none)

/-- R165: when the bus is busy or another device is held, SUBMIT_ATOMIC releases whatever select is held, with
its teardown, before anything else; otherwise its first event is the Message's first read. -/
def Obligations.AtomicHazardReleasesFirst : Prop :=
  ∀ (s t : State) (d : Slot) (m : Word), s.misconfigured = false → s.raced = [] →
    exec (.submitAtomic d m) s = .next t →
    ∃ later, t.trace = s.trace ++
      (if s.busy = true ∨ (∃ e, s.heldCs = some e ∧ e ≠ d) then releaseEvents s s.heldCs else [])
      ++ .memRead m 4 (s.wordAt m) :: later

/-- R57, U7 (log 7): a byte the host stores is marked with every Message in flight (queued, or in the sequencer with
its completion not yet raised), wherever it lies, and while such a Message is in the sequencer the block's read of a
byte marked with it is the free value. The store changes that byte of memory, the marks and nothing else. -/
def Obligations.RacedByteReadsAsAnyValue : Prop :=
  (∀ (s : State) (a : Word) (b : Byte), { hostStore a b s with mem := s.mem, raced := s.raced } = s ∧
    ∀ x : Nat, (hostStore a b s).mem.read x = if x = a.toNat then some b else s.mem.read x) ∧
  (∀ (s : State) (e : Entry) (a : Word) (b : Byte), e ∈ s.queue → (e.msg, a) ∈ (hostStore a b s).raced) ∧
  (∀ (s : State) (e : Entry) (a : Word) (b : Byte), s.inflight = some e → (∀ h, s.worker ≠ .owes h) →
    (e.msg, a) ∈ (hostStore a b s).raced ∧
    (memRead1 a (hostStore a b s)).1 = Config.racedByte s.draws a) ∧
  (∀ (s : State) (e : Entry) (a : Word), (e.msg, a) ∈ s.raced → s.inflight = some e →
    (memRead1 a s).1 = Config.racedByte s.draws a)

/-! ### Register window, interrupt, reset (spec/10_state.md, 60_exceptions.md, 70_reset_and_hazards.md) -/

/-- R25: every field of STATUS; reading it has no side effect. -/
def Obligations.StatusFields : Prop :=
  ∀ s : State, ∃ w : Word, readReg 0x10 4 s = .next { s with busData := w } ∧
    w.getLsbD 0 = s.busy ∧ w.getLsbD 1 = s.heldCs.isSome ∧ w.extractLsb' 2 2 = 0 ∧
    w.extractLsb' 4 4 = s.heldCs.getD 0 ∧ w.getLsbD 8 = s.inflight.isSome ∧
    w.getLsbD 9 = decide (s.queue ≠ []) ∧ w.getLsbD 10 = decide (s.comp ≠ []) ∧
    w.extractLsb' 11 20 = 0 ∧ w.getLsbD 31 = s.misconfigured

/-- R26, R33: the speed and device registers are views without side effect. -/
def Obligations.SpeedAndDeviceRegisters : Prop :=
  ∀ s : State,
    readReg 0x14 4 s = .next { s with busData := s.speed.curHz.getD 0 } ∧
    readReg 0x18 4 s = .next { s with busData := s.speed.softDelayNs } ∧
    (∃ w : Word, readReg 0x1C 4 s = .next { s with busData := w } ∧
      w.getLsbD 31 = s.speed.divider.isSome ∧ w.extractLsb' 0 16 = s.speed.divider.getD 0 ∧
      w.extractLsb' 16 15 = 0) ∧
    (∀ i : Slot, s.cfg.ndev ≤ 16 → i.toNat < s.cfg.ndev →
      (∃ w : Word, readReg (BitVec.ofNat 32 (0x80 + 8 * i.toNat)) 4 s = .next { s with busData := w } ∧
        w.getLsbD 31 = (s.dev i).valid ∧
        w.extractLsb' 8 8 = (if (s.dev i).valid then (s.dev i).bpw else 0) ∧
        w.getLsbD 2 = ((s.dev i).valid && (s.dev i).csHigh) ∧
        w.getLsbD 1 = ((s.dev i).valid && (s.dev i).cpol) ∧
        w.getLsbD 0 = ((s.dev i).valid && (s.dev i).cpha) ∧ w.extractLsb' 3 5 = 0 ∧
        w.extractLsb' 16 15 = 0) ∧
      readReg (BitVec.ofNat 32 (0x84 + 8 * i.toNat)) 4 s =
        .next { s with busData := if (s.dev i).valid then (s.dev i).maxSpeedHz else 0 })

/-- R27: the four line registers; the host cannot write them. GPIO_IN reads what a GPIO_GET at that moment would
return; that it then uses up the environment's answer and counts a draw as GPIO_GET does, but appends no event, is
the model's reading (log 19, DEDUCED). -/
def Obligations.LineRegisters : Prop :=
  ∀ s : State, Inv s →
    (∃ out dir od input : Word,
      readReg 0x20 4 s = .next { s with busData := out } ∧
      readReg 0x28 4 s = .next { s with busData := dir } ∧
      readReg 0x2C 4 s = .next { s with busData := od } ∧
      readReg 0x24 4 s =
        .next { s with busData := input, lineScript := s.lineScript.tail, draws := s.draws + 1 } ∧
      exec .gpioGet s = .next { s with
        ret := input, lineScript := s.lineScript.tail, draws := s.draws + 1
        trace := s.trace ++ [.lineGet input] } ∧
      (∀ n < 32, out.getLsbD n = s.gpioOut.getLsbD n ∧ dir.getLsbD n = decide (s.dirOf n ≠ .input) ∧
        od.getLsbD n = decide (s.dirOf n = .openDrain)) ∧
      (∀ n < 32, s.cfg.nlines ≤ n → out.getLsbD n = false ∧ dir.getLsbD n = false ∧
        od.getLsbD n = false ∧ input.getLsbD n = false)) ∧
    (∀ v : Word, ∀ off ∈ [(0x20 : Word), 0x24, 0x28, 0x2C], writeReg off 4 v s = .next s)

/-- R30, R31, R32, R190: the COMP registers show the head record, or 0, without popping it; COMP_POP removes the
head and does nothing on an empty FIFO; IRQ_EN keeps bit 0 only; the interrupt is the enabled pending
condition. -/
def Obligations.CompletionRegistersAndInterrupt : Prop :=
  (∀ (s : State) (r : CompRec) (rest : List CompRec), s.comp = r :: rest →
    readReg 0x30 4 s = .next { s with busData := r.msg } ∧
    readReg 0x34 4 s = .next { s with busData := r.callback } ∧
    readReg 0x38 4 s = .next { s with busData := r.context } ∧
    readReg 0x3C 4 s = .next { s with busData := r.status } ∧
    readReg 0x40 4 s = .next { s with busData := r.actualLength } ∧
    (∀ v, writeReg 0x44 4 v s = .next { s with comp := rest }) ∧ irq s = s.compIe) ∧
  (∀ s : State, s.comp = [] →
    (∀ off ∈ [(0x30 : Word), 0x34, 0x38, 0x3C, 0x40], readReg off 4 s = .next { s with busData := 0 }) ∧
    (∀ v, writeReg 0x44 4 v s = .next s) ∧ irq s = false) ∧
  (∀ (s : State) (v : Word), writeReg 0x48 4 v s = .next { s with compIe := v.getLsbD 0 } ∧
    readReg 0x48 4 s = .next { s with busData := if s.compIe then 1 else 0 })

/-- R22, R23, R24, R47, U9: an access that is not 32 bits on a multiple of 4 stops; a write to an aligned offset other
than CMD, ARG0, COMP_POP and IRQ_EN is ignored; CMD, COMP_POP and the offsets not listed read 0; ARG0 and RESULT read
what they hold, without side effect. -/
def Obligations.WindowAccessRules : Prop :=
  ∀ (s : State) (off v : Word),
    (∀ width : Nat, width ≠ 4 ∨ off.toNat % 4 ≠ 0 →
      readReg off width s = .refused .badWindowAccess ∧
      writeReg off width v s = .refused .badWindowAccess) ∧
    (off.toNat % 4 = 0 → off ≠ 0x00 → off ≠ 0x04 → off ≠ 0x44 → off ≠ 0x48 →
      writeReg off 4 v s = .next s) ∧
    (off.toNat % 4 = 0 →
      off = 0x00 ∨ off = 0x08 ∨ off = 0x44 ∨ (0x4C ≤ off.toNat ∧ off.toNat ≤ 0x7C) ∨
        0x80 + 8 * s.cfg.ndev ≤ off.toNat →
      readReg off 4 s = .next { s with busData := 0 }) ∧
    readReg 0x04 4 s = .next { s with busData := s.arg0 } ∧
    readReg 0x0C 4 s = .next { s with busData := s.result }

/-- R35 (the values the spec gives): a constructed controller on every legal platform whose GPIO is mapped. -/
def Obligations.ConstructionTable : Prop :=
  ∀ c : Config, c.wf = true → c.gpioMapped = true →
    let s := State.constructed c
    s.dirOf c.sck = .pushPull ∧ s.dirOf c.mosi = .pushPull ∧ s.dirOf c.miso = .input ∧
    s.gpioOut.getLsbD c.sck = false ∧ s.gpioOut.getLsbD c.mosi = false ∧
    (∀ p ∈ c.slots, s.dirOf p.cs = .input ∧ s.gpioOut.getLsbD p.cs = false ∧
      ∀ n < 32, (p.auxHigh ||| p.auxLow ||| p.strobe).getLsbD n = true →
        s.dirOf n = .pushPull ∧ s.gpioOut.getLsbD n = p.auxLow.getLsbD n) ∧
    (∀ n < 32, n ≠ c.sck → n ≠ c.mosi →
      (∀ p ∈ c.slots, (p.auxHigh ||| p.auxLow ||| p.strobe).getLsbD n = false) →
      s.dirOf n = .input ∧ s.gpioOut.getLsbD n = false) ∧
    s.bitCnt = 0 ∧ s.speed = { curHz := none, softDelayNs := 0, divider := none } ∧
    s.heldCs = none ∧ s.inflight = none ∧ s.queue = [] ∧ s.busy = false ∧
    (∀ d : Slot, (s.dev d).valid = false) ∧ s.arg0 = 0 ∧ s.result = 0 ∧ s.compIe = false ∧ s.comp = [] ∧
    s.misconfigured = false

/-- R210, R183: the construction sequence takes the state after power-on to the constructed one; when the GPIO
is not mapped no line is driven and the controller is misconfigured. -/
def Obligations.ConstructionSequence : Prop :=
  (∀ c : Config, c.wf = true → construction (State.powerOn c) = State.constructed c) ∧
  (∀ c : Config, c.gpioMapped = false →
    (State.constructed c).misconfigured = true ∧ (State.constructed c).trace = [] ∧
    ∀ n, (State.constructed c).dirOf n = .input ∧ (State.constructed c).gpioOut.getLsbD n = false)

/-- R212: reset with work outstanding discards queue, sequencer and completions without a completion, between two moves
and in the middle of one: a reset after the first `n` events of a move leaves the trace cut there, memory with what
those events stored and no more, and a constructed controller; one that comes after the last event is a reset after
the move (but for a move that changes the environment or memory without an event). That host memory, the environment
and the trace so far stay is the model's choice (log 14, DESIGN CHOICE). -/
def Obligations.ResetDiscardsWork : Prop :=
  (∀ s : State, s.cfg.wf = true →
    act .reset s = .next { State.constructed s.cfg with
      mem := s.mem, lineScript := s.lineScript, draws := s.draws, agenda := s.agenda
      trace := s.trace ++ (State.constructed s.cfg).trace }) ∧
  (∀ (s t : State) (move : Action) (n : Nat), s.cfg.wf = true → act move s = .next t →
    ∃ u done later, act (.resetDuring move n) s = .next u ∧
      t.trace = s.trace ++ done ++ later ∧ done.length ≤ n ∧ (done.length < n → later = []) ∧
      u = { State.constructed s.cfg with
        mem := u.mem, lineScript := u.lineScript, draws := u.draws, agenda := s.agenda
        trace := s.trace ++ done ++ (State.constructed s.cfg).trace } ∧
      u.mem = done.foldl replayEvent s.mem ∧
      (∀ a : Nat, (∀ e ∈ done, storesAt a e = false) → u.mem.read a = s.mem.read a) ∧
      (later = [] → (∀ a v, move ≠ .store a v) → (∀ off width, move ≠ .readReg off width) →
        act .reset t = .next u))

/-- Every constructed controller on a legal platform meets the invariant and the select invariant. -/
def Obligations.ResetMeetsInvariant : Prop :=
  ∀ c : Config, c.wf = true → Inv (State.constructed c) ∧ SelectInv (State.constructed c)

/-- Every step of every agent, micro-operations issued by themselves included, keeps the invariant. -/
def Obligations.StepKeepsInvariant : Prop := ∀ s t : State, Inv s → step s = .next t → Inv t

/-- R135, R230 c, R136, R137, R142, R155, R165: every move of the host or the worker keeps the select invariant,
so at most one chip-select line of a registered slot is ever active between moves. -/
def Obligations.HostMovesKeepSelect : Prop :=
  ∀ s t : State, Inv s → SelectInv s → s.hostMoves = true → step s = .next t →
    SelectInv t ∧ ∀ d e : Slot, t.ready d = true → t.ready e = true →
      t.csActive d = true → t.csActive e = true → d = e

/-- R20, R156: no operation but REGDEV writes a slot, and REGDEV writes one slot that was not valid. -/
def Obligations.OnlyRegdevWritesSlots : Prop :=
  ∀ (i : Instr) (s t : State) (d : Slot), exec i s = .next t → t.dev d ≠ s.dev d →
    (s.dev d).valid = false ∧ (t.dev d).valid = true ∧ ∃ bpw mode hz, i = .regdev d bpw mode hz

/-- R30, R164: only COMPLETE and a worker turn append to the completion FIFO, and they append one record. -/
def Obligations.OnlyCompletionAppends : Prop :=
  ∀ (i : Instr) (s t : State), exec i s = .next t →
    t.comp = s.comp ∨
      ((∃ r, t.comp = s.comp ++ [r]) ∧ (i = .workerStep ∨ ∃ d m, i = .complete d m))

/-- R4, R7: no step changes the platform, and no step takes an event back. For a reset move the second half is the
model's choice: a reset keeps the trace (log 14, DESIGN CHOICE). -/
def Obligations.StepKeepsPlatformAndTrace : Prop :=
  ∀ s t : State, step s = .next t → t.cfg = s.cfg ∧ ∃ later, t.trace = s.trace ++ later
end

