-- ==== Sys2Proof/Laws/State.lean ====
section
/-! SUPPORT. One lemma per field per named update of State: what it writes, and that it leaves the rest. All by
rfl, all simp lemmas, so that no later proof unfolds a record update. -/

namespace Sys2Proof.Machine

variable (s : State)


/-! ### emit -/

@[simp] theorem emit_cfg (e : Event) : (emit e s).cfg = s.cfg := rfl
@[simp] theorem emit_mem (e : Event) : (emit e s).mem = s.mem := rfl
@[simp] theorem emit_trace (e : Event) : (emit e s).trace = s.trace ++ [e] := rfl
@[simp] theorem emit_lineScript (e : Event) : (emit e s).lineScript = s.lineScript := rfl
@[simp] theorem emit_draws (e : Event) : (emit e s).draws = s.draws := rfl
@[simp] theorem emit_raced (e : Event) : (emit e s).raced = s.raced := rfl
@[simp] theorem emit_agenda (e : Event) : (emit e s).agenda = s.agenda := rfl
@[simp] theorem emit_gpioOut (e : Event) : (emit e s).gpioOut = s.gpioOut := rfl
@[simp] theorem emit_gpioPP (e : Event) : (emit e s).gpioPP = s.gpioPP := rfl
@[simp] theorem emit_gpioOD (e : Event) : (emit e s).gpioOD = s.gpioOD := rfl
@[simp] theorem emit_srTx (e : Event) : (emit e s).srTx = s.srTx := rfl
@[simp] theorem emit_srRx (e : Event) : (emit e s).srRx = s.srRx := rfl
@[simp] theorem emit_hwCtrl (e : Event) : (emit e s).hwCtrl = s.hwCtrl := rfl
@[simp] theorem emit_bitCnt (e : Event) : (emit e s).bitCnt = s.bitCnt := rfl
@[simp] theorem emit_latch (e : Event) : (emit e s).latch = s.latch := rfl
@[simp] theorem emit_pos (e : Event) : (emit e s).pos = s.pos := rfl
@[simp] theorem emit_speed (e : Event) : (emit e s).speed = s.speed := rfl
@[simp] theorem emit_heldCs (e : Event) : (emit e s).heldCs = s.heldCs := rfl
@[simp] theorem emit_inflight (e : Event) : (emit e s).inflight = s.inflight := rfl
@[simp] theorem emit_queue (e : Event) : (emit e s).queue = s.queue := rfl
@[simp] theorem emit_busy (e : Event) : (emit e s).busy = s.busy := rfl
@[simp] theorem emit_worker (e : Event) : (emit e s).worker = s.worker := rfl
@[simp] theorem emit_caller (e : Event) : (emit e s).caller = s.caller := rfl
@[simp] theorem emit_answers (e : Event) : (emit e s).answers = s.answers := rfl
@[simp] theorem emit_seq (e : Event) : (emit e s).seq = s.seq := rfl
@[simp] theorem emit_ret (e : Event) : (emit e s).ret = s.ret := rfl
@[simp] theorem emit_devs (e : Event) : (emit e s).devs = s.devs := rfl
@[simp] theorem emit_arg0 (e : Event) : (emit e s).arg0 = s.arg0 := rfl
@[simp] theorem emit_result (e : Event) : (emit e s).result = s.result := rfl
@[simp] theorem emit_compIe (e : Event) : (emit e s).compIe = s.compIe := rfl
@[simp] theorem emit_comp (e : Event) : (emit e s).comp = s.comp := rfl
@[simp] theorem emit_busData (e : Event) : (emit e s).busData = s.busData := rfl
@[simp] theorem emit_misconfigured (e : Event) : (emit e s).misconfigured = s.misconfigured := rfl


/-! ### storeByte -/

@[simp] theorem storeByte_cfg (a : Word) (b : Byte) : (storeByte a b s).cfg = s.cfg := rfl
@[simp] theorem storeByte_mem (a : Word) (b : Byte) : (storeByte a b s).mem = s.mem.write a.toNat b := rfl
@[simp] theorem storeByte_trace (a : Word) (b : Byte) : (storeByte a b s).trace = s.trace := rfl
@[simp] theorem storeByte_lineScript (a : Word) (b : Byte) : (storeByte a b s).lineScript = s.lineScript := rfl
@[simp] theorem storeByte_draws (a : Word) (b : Byte) : (storeByte a b s).draws = s.draws := rfl
@[simp] theorem storeByte_raced (a : Word) (b : Byte) : (storeByte a b s).raced = s.raced := rfl
@[simp] theorem storeByte_agenda (a : Word) (b : Byte) : (storeByte a b s).agenda = s.agenda := rfl
@[simp] theorem storeByte_gpioOut (a : Word) (b : Byte) : (storeByte a b s).gpioOut = s.gpioOut := rfl
@[simp] theorem storeByte_gpioPP (a : Word) (b : Byte) : (storeByte a b s).gpioPP = s.gpioPP := rfl
@[simp] theorem storeByte_gpioOD (a : Word) (b : Byte) : (storeByte a b s).gpioOD = s.gpioOD := rfl
@[simp] theorem storeByte_srTx (a : Word) (b : Byte) : (storeByte a b s).srTx = s.srTx := rfl
@[simp] theorem storeByte_srRx (a : Word) (b : Byte) : (storeByte a b s).srRx = s.srRx := rfl
@[simp] theorem storeByte_hwCtrl (a : Word) (b : Byte) : (storeByte a b s).hwCtrl = s.hwCtrl := rfl
@[simp] theorem storeByte_bitCnt (a : Word) (b : Byte) : (storeByte a b s).bitCnt = s.bitCnt := rfl
@[simp] theorem storeByte_latch (a : Word) (b : Byte) : (storeByte a b s).latch = s.latch := rfl
@[simp] theorem storeByte_pos (a : Word) (b : Byte) : (storeByte a b s).pos = s.pos := rfl
@[simp] theorem storeByte_speed (a : Word) (b : Byte) : (storeByte a b s).speed = s.speed := rfl
@[simp] theorem storeByte_heldCs (a : Word) (b : Byte) : (storeByte a b s).heldCs = s.heldCs := rfl
@[simp] theorem storeByte_inflight (a : Word) (b : Byte) : (storeByte a b s).inflight = s.inflight := rfl
@[simp] theorem storeByte_queue (a : Word) (b : Byte) : (storeByte a b s).queue = s.queue := rfl
@[simp] theorem storeByte_busy (a : Word) (b : Byte) : (storeByte a b s).busy = s.busy := rfl
@[simp] theorem storeByte_worker (a : Word) (b : Byte) : (storeByte a b s).worker = s.worker := rfl
@[simp] theorem storeByte_caller (a : Word) (b : Byte) : (storeByte a b s).caller = s.caller := rfl
@[simp] theorem storeByte_answers (a : Word) (b : Byte) : (storeByte a b s).answers = s.answers := rfl
@[simp] theorem storeByte_seq (a : Word) (b : Byte) : (storeByte a b s).seq = s.seq := rfl
@[simp] theorem storeByte_ret (a : Word) (b : Byte) : (storeByte a b s).ret = s.ret := rfl
@[simp] theorem storeByte_devs (a : Word) (b : Byte) : (storeByte a b s).devs = s.devs := rfl
@[simp] theorem storeByte_arg0 (a : Word) (b : Byte) : (storeByte a b s).arg0 = s.arg0 := rfl
@[simp] theorem storeByte_result (a : Word) (b : Byte) : (storeByte a b s).result = s.result := rfl
@[simp] theorem storeByte_compIe (a : Word) (b : Byte) : (storeByte a b s).compIe = s.compIe := rfl
@[simp] theorem storeByte_comp (a : Word) (b : Byte) : (storeByte a b s).comp = s.comp := rfl
@[simp] theorem storeByte_busData (a : Word) (b : Byte) : (storeByte a b s).busData = s.busData := rfl
@[simp] theorem storeByte_misconfigured (a : Word) (b : Byte) : (storeByte a b s).misconfigured = s.misconfigured := rfl


/-! ### consumeAnswer -/

@[simp] theorem consumeAnswer_cfg : (consumeAnswer s).cfg = s.cfg := rfl
@[simp] theorem consumeAnswer_mem : (consumeAnswer s).mem = s.mem := rfl
@[simp] theorem consumeAnswer_trace : (consumeAnswer s).trace = s.trace := rfl
@[simp] theorem consumeAnswer_lineScript : (consumeAnswer s).lineScript = s.lineScript.tail := rfl
@[simp] theorem consumeAnswer_draws : (consumeAnswer s).draws = s.draws + 1 := rfl
@[simp] theorem consumeAnswer_raced : (consumeAnswer s).raced = s.raced := rfl
@[simp] theorem consumeAnswer_agenda : (consumeAnswer s).agenda = s.agenda := rfl
@[simp] theorem consumeAnswer_gpioOut : (consumeAnswer s).gpioOut = s.gpioOut := rfl
@[simp] theorem consumeAnswer_gpioPP : (consumeAnswer s).gpioPP = s.gpioPP := rfl
@[simp] theorem consumeAnswer_gpioOD : (consumeAnswer s).gpioOD = s.gpioOD := rfl
@[simp] theorem consumeAnswer_srTx : (consumeAnswer s).srTx = s.srTx := rfl
@[simp] theorem consumeAnswer_srRx : (consumeAnswer s).srRx = s.srRx := rfl
@[simp] theorem consumeAnswer_hwCtrl : (consumeAnswer s).hwCtrl = s.hwCtrl := rfl
@[simp] theorem consumeAnswer_bitCnt : (consumeAnswer s).bitCnt = s.bitCnt := rfl
@[simp] theorem consumeAnswer_latch : (consumeAnswer s).latch = s.latch := rfl
@[simp] theorem consumeAnswer_pos : (consumeAnswer s).pos = s.pos := rfl
@[simp] theorem consumeAnswer_speed : (consumeAnswer s).speed = s.speed := rfl
@[simp] theorem consumeAnswer_heldCs : (consumeAnswer s).heldCs = s.heldCs := rfl
@[simp] theorem consumeAnswer_inflight : (consumeAnswer s).inflight = s.inflight := rfl
@[simp] theorem consumeAnswer_queue : (consumeAnswer s).queue = s.queue := rfl
@[simp] theorem consumeAnswer_busy : (consumeAnswer s).busy = s.busy := rfl
@[simp] theorem consumeAnswer_worker : (consumeAnswer s).worker = s.worker := rfl
@[simp] theorem consumeAnswer_caller : (consumeAnswer s).caller = s.caller := rfl
@[simp] theorem consumeAnswer_answers : (consumeAnswer s).answers = s.answers := rfl
@[simp] theorem consumeAnswer_seq : (consumeAnswer s).seq = s.seq := rfl
@[simp] theorem consumeAnswer_ret : (consumeAnswer s).ret = s.ret := rfl
@[simp] theorem consumeAnswer_devs : (consumeAnswer s).devs = s.devs := rfl
@[simp] theorem consumeAnswer_arg0 : (consumeAnswer s).arg0 = s.arg0 := rfl
@[simp] theorem consumeAnswer_result : (consumeAnswer s).result = s.result := rfl
@[simp] theorem consumeAnswer_compIe : (consumeAnswer s).compIe = s.compIe := rfl
@[simp] theorem consumeAnswer_comp : (consumeAnswer s).comp = s.comp := rfl
@[simp] theorem consumeAnswer_busData : (consumeAnswer s).busData = s.busData := rfl
@[simp] theorem consumeAnswer_misconfigured : (consumeAnswer s).misconfigured = s.misconfigured := rfl


/-! ### setDev -/

@[simp] theorem setDev_cfg (d : Slot) (v : Device) : (setDev d v s).cfg = s.cfg := rfl
@[simp] theorem setDev_mem (d : Slot) (v : Device) : (setDev d v s).mem = s.mem := rfl
@[simp] theorem setDev_trace (d : Slot) (v : Device) : (setDev d v s).trace = s.trace := rfl
@[simp] theorem setDev_lineScript (d : Slot) (v : Device) : (setDev d v s).lineScript = s.lineScript := rfl
@[simp] theorem setDev_draws (d : Slot) (v : Device) : (setDev d v s).draws = s.draws := rfl
@[simp] theorem setDev_raced (d : Slot) (v : Device) : (setDev d v s).raced = s.raced := rfl
@[simp] theorem setDev_agenda (d : Slot) (v : Device) : (setDev d v s).agenda = s.agenda := rfl
@[simp] theorem setDev_gpioOut (d : Slot) (v : Device) : (setDev d v s).gpioOut = s.gpioOut := rfl
@[simp] theorem setDev_gpioPP (d : Slot) (v : Device) : (setDev d v s).gpioPP = s.gpioPP := rfl
@[simp] theorem setDev_gpioOD (d : Slot) (v : Device) : (setDev d v s).gpioOD = s.gpioOD := rfl
@[simp] theorem setDev_srTx (d : Slot) (v : Device) : (setDev d v s).srTx = s.srTx := rfl
@[simp] theorem setDev_srRx (d : Slot) (v : Device) : (setDev d v s).srRx = s.srRx := rfl
@[simp] theorem setDev_hwCtrl (d : Slot) (v : Device) : (setDev d v s).hwCtrl = s.hwCtrl := rfl
@[simp] theorem setDev_bitCnt (d : Slot) (v : Device) : (setDev d v s).bitCnt = s.bitCnt := rfl
@[simp] theorem setDev_latch (d : Slot) (v : Device) : (setDev d v s).latch = s.latch := rfl
@[simp] theorem setDev_pos (d : Slot) (v : Device) : (setDev d v s).pos = s.pos := rfl
@[simp] theorem setDev_speed (d : Slot) (v : Device) : (setDev d v s).speed = s.speed := rfl
@[simp] theorem setDev_heldCs (d : Slot) (v : Device) : (setDev d v s).heldCs = s.heldCs := rfl
@[simp] theorem setDev_inflight (d : Slot) (v : Device) : (setDev d v s).inflight = s.inflight := rfl
@[simp] theorem setDev_queue (d : Slot) (v : Device) : (setDev d v s).queue = s.queue := rfl
@[simp] theorem setDev_busy (d : Slot) (v : Device) : (setDev d v s).busy = s.busy := rfl
@[simp] theorem setDev_worker (d : Slot) (v : Device) : (setDev d v s).worker = s.worker := rfl
@[simp] theorem setDev_caller (d : Slot) (v : Device) : (setDev d v s).caller = s.caller := rfl
@[simp] theorem setDev_answers (d : Slot) (v : Device) : (setDev d v s).answers = s.answers := rfl
@[simp] theorem setDev_seq (d : Slot) (v : Device) : (setDev d v s).seq = s.seq := rfl
@[simp] theorem setDev_ret (d : Slot) (v : Device) : (setDev d v s).ret = s.ret := rfl
@[simp] theorem setDev_devs (d : Slot) (v : Device) : (setDev d v s).devs = s.devs.set d.toNat v (by omega) := rfl
@[simp] theorem setDev_arg0 (d : Slot) (v : Device) : (setDev d v s).arg0 = s.arg0 := rfl
@[simp] theorem setDev_result (d : Slot) (v : Device) : (setDev d v s).result = s.result := rfl
@[simp] theorem setDev_compIe (d : Slot) (v : Device) : (setDev d v s).compIe = s.compIe := rfl
@[simp] theorem setDev_comp (d : Slot) (v : Device) : (setDev d v s).comp = s.comp := rfl
@[simp] theorem setDev_busData (d : Slot) (v : Device) : (setDev d v s).busData = s.busData := rfl
@[simp] theorem setDev_misconfigured (d : Slot) (v : Device) : (setDev d v s).misconfigured = s.misconfigured := rfl


/-! ### setResult -/

@[simp] theorem setResult_cfg (w : Word) : (setResult w s).cfg = s.cfg := rfl
@[simp] theorem setResult_mem (w : Word) : (setResult w s).mem = s.mem := rfl
@[simp] theorem setResult_trace (w : Word) : (setResult w s).trace = s.trace := rfl
@[simp] theorem setResult_lineScript (w : Word) : (setResult w s).lineScript = s.lineScript := rfl
@[simp] theorem setResult_draws (w : Word) : (setResult w s).draws = s.draws := rfl
@[simp] theorem setResult_raced (w : Word) : (setResult w s).raced = s.raced := rfl
@[simp] theorem setResult_agenda (w : Word) : (setResult w s).agenda = s.agenda := rfl
@[simp] theorem setResult_gpioOut (w : Word) : (setResult w s).gpioOut = s.gpioOut := rfl
@[simp] theorem setResult_gpioPP (w : Word) : (setResult w s).gpioPP = s.gpioPP := rfl
@[simp] theorem setResult_gpioOD (w : Word) : (setResult w s).gpioOD = s.gpioOD := rfl
@[simp] theorem setResult_srTx (w : Word) : (setResult w s).srTx = s.srTx := rfl
@[simp] theorem setResult_srRx (w : Word) : (setResult w s).srRx = s.srRx := rfl
@[simp] theorem setResult_hwCtrl (w : Word) : (setResult w s).hwCtrl = s.hwCtrl := rfl
@[simp] theorem setResult_bitCnt (w : Word) : (setResult w s).bitCnt = s.bitCnt := rfl
@[simp] theorem setResult_latch (w : Word) : (setResult w s).latch = s.latch := rfl
@[simp] theorem setResult_pos (w : Word) : (setResult w s).pos = s.pos := rfl
@[simp] theorem setResult_speed (w : Word) : (setResult w s).speed = s.speed := rfl
@[simp] theorem setResult_heldCs (w : Word) : (setResult w s).heldCs = s.heldCs := rfl
@[simp] theorem setResult_inflight (w : Word) : (setResult w s).inflight = s.inflight := rfl
@[simp] theorem setResult_queue (w : Word) : (setResult w s).queue = s.queue := rfl
@[simp] theorem setResult_busy (w : Word) : (setResult w s).busy = s.busy := rfl
@[simp] theorem setResult_worker (w : Word) : (setResult w s).worker = s.worker := rfl
@[simp] theorem setResult_caller (w : Word) : (setResult w s).caller = s.caller := rfl
@[simp] theorem setResult_answers (w : Word) : (setResult w s).answers = s.answers := rfl
@[simp] theorem setResult_seq (w : Word) : (setResult w s).seq = s.seq := rfl
@[simp] theorem setResult_ret (w : Word) : (setResult w s).ret = s.ret := rfl
@[simp] theorem setResult_devs (w : Word) : (setResult w s).devs = s.devs := rfl
@[simp] theorem setResult_arg0 (w : Word) : (setResult w s).arg0 = s.arg0 := rfl
@[simp] theorem setResult_result (w : Word) : (setResult w s).result = w := rfl
@[simp] theorem setResult_compIe (w : Word) : (setResult w s).compIe = s.compIe := rfl
@[simp] theorem setResult_comp (w : Word) : (setResult w s).comp = s.comp := rfl
@[simp] theorem setResult_busData (w : Word) : (setResult w s).busData = s.busData := rfl
@[simp] theorem setResult_misconfigured (w : Word) : (setResult w s).misconfigured = s.misconfigured := rfl


/-! ### popCompletion -/

@[simp] theorem popCompletion_cfg : (popCompletion s).cfg = s.cfg := rfl
@[simp] theorem popCompletion_mem : (popCompletion s).mem = s.mem := rfl
@[simp] theorem popCompletion_trace : (popCompletion s).trace = s.trace := rfl
@[simp] theorem popCompletion_lineScript : (popCompletion s).lineScript = s.lineScript := rfl
@[simp] theorem popCompletion_draws : (popCompletion s).draws = s.draws := rfl
@[simp] theorem popCompletion_raced : (popCompletion s).raced = s.raced := rfl
@[simp] theorem popCompletion_agenda : (popCompletion s).agenda = s.agenda := rfl
@[simp] theorem popCompletion_gpioOut : (popCompletion s).gpioOut = s.gpioOut := rfl
@[simp] theorem popCompletion_gpioPP : (popCompletion s).gpioPP = s.gpioPP := rfl
@[simp] theorem popCompletion_gpioOD : (popCompletion s).gpioOD = s.gpioOD := rfl
@[simp] theorem popCompletion_srTx : (popCompletion s).srTx = s.srTx := rfl
@[simp] theorem popCompletion_srRx : (popCompletion s).srRx = s.srRx := rfl
@[simp] theorem popCompletion_hwCtrl : (popCompletion s).hwCtrl = s.hwCtrl := rfl
@[simp] theorem popCompletion_bitCnt : (popCompletion s).bitCnt = s.bitCnt := rfl
@[simp] theorem popCompletion_latch : (popCompletion s).latch = s.latch := rfl
@[simp] theorem popCompletion_pos : (popCompletion s).pos = s.pos := rfl
@[simp] theorem popCompletion_speed : (popCompletion s).speed = s.speed := rfl
@[simp] theorem popCompletion_heldCs : (popCompletion s).heldCs = s.heldCs := rfl
@[simp] theorem popCompletion_inflight : (popCompletion s).inflight = s.inflight := rfl
@[simp] theorem popCompletion_queue : (popCompletion s).queue = s.queue := rfl
@[simp] theorem popCompletion_busy : (popCompletion s).busy = s.busy := rfl
@[simp] theorem popCompletion_worker : (popCompletion s).worker = s.worker := rfl
@[simp] theorem popCompletion_caller : (popCompletion s).caller = s.caller := rfl
@[simp] theorem popCompletion_answers : (popCompletion s).answers = s.answers := rfl
@[simp] theorem popCompletion_seq : (popCompletion s).seq = s.seq := rfl
@[simp] theorem popCompletion_ret : (popCompletion s).ret = s.ret := rfl
@[simp] theorem popCompletion_devs : (popCompletion s).devs = s.devs := rfl
@[simp] theorem popCompletion_arg0 : (popCompletion s).arg0 = s.arg0 := rfl
@[simp] theorem popCompletion_result : (popCompletion s).result = s.result := rfl
@[simp] theorem popCompletion_compIe : (popCompletion s).compIe = s.compIe := rfl
@[simp] theorem popCompletion_comp : (popCompletion s).comp = s.comp.tail := rfl
@[simp] theorem popCompletion_busData : (popCompletion s).busData = s.busData := rfl
@[simp] theorem popCompletion_misconfigured : (popCompletion s).misconfigured = s.misconfigured := rfl


/-! ### dropMarks -/

@[simp] theorem dropMarks_cfg (m : Word) : (dropMarks m s).cfg = s.cfg := rfl
@[simp] theorem dropMarks_mem (m : Word) : (dropMarks m s).mem = s.mem := rfl
@[simp] theorem dropMarks_trace (m : Word) : (dropMarks m s).trace = s.trace := rfl
@[simp] theorem dropMarks_lineScript (m : Word) : (dropMarks m s).lineScript = s.lineScript := rfl
@[simp] theorem dropMarks_draws (m : Word) : (dropMarks m s).draws = s.draws := rfl
@[simp] theorem dropMarks_raced (m : Word) : (dropMarks m s).raced = s.raced.filter (fun e => e.1 != m || (s.queue.map Entry.msg).contains m) := rfl
@[simp] theorem dropMarks_agenda (m : Word) : (dropMarks m s).agenda = s.agenda := rfl
@[simp] theorem dropMarks_gpioOut (m : Word) : (dropMarks m s).gpioOut = s.gpioOut := rfl
@[simp] theorem dropMarks_gpioPP (m : Word) : (dropMarks m s).gpioPP = s.gpioPP := rfl
@[simp] theorem dropMarks_gpioOD (m : Word) : (dropMarks m s).gpioOD = s.gpioOD := rfl
@[simp] theorem dropMarks_srTx (m : Word) : (dropMarks m s).srTx = s.srTx := rfl
@[simp] theorem dropMarks_srRx (m : Word) : (dropMarks m s).srRx = s.srRx := rfl
@[simp] theorem dropMarks_hwCtrl (m : Word) : (dropMarks m s).hwCtrl = s.hwCtrl := rfl
@[simp] theorem dropMarks_bitCnt (m : Word) : (dropMarks m s).bitCnt = s.bitCnt := rfl
@[simp] theorem dropMarks_latch (m : Word) : (dropMarks m s).latch = s.latch := rfl
@[simp] theorem dropMarks_pos (m : Word) : (dropMarks m s).pos = s.pos := rfl
@[simp] theorem dropMarks_speed (m : Word) : (dropMarks m s).speed = s.speed := rfl
@[simp] theorem dropMarks_heldCs (m : Word) : (dropMarks m s).heldCs = s.heldCs := rfl
@[simp] theorem dropMarks_inflight (m : Word) : (dropMarks m s).inflight = s.inflight := rfl
@[simp] theorem dropMarks_queue (m : Word) : (dropMarks m s).queue = s.queue := rfl
@[simp] theorem dropMarks_busy (m : Word) : (dropMarks m s).busy = s.busy := rfl
@[simp] theorem dropMarks_worker (m : Word) : (dropMarks m s).worker = s.worker := rfl
@[simp] theorem dropMarks_caller (m : Word) : (dropMarks m s).caller = s.caller := rfl
@[simp] theorem dropMarks_answers (m : Word) : (dropMarks m s).answers = s.answers := rfl
@[simp] theorem dropMarks_seq (m : Word) : (dropMarks m s).seq = s.seq := rfl
@[simp] theorem dropMarks_ret (m : Word) : (dropMarks m s).ret = s.ret := rfl
@[simp] theorem dropMarks_devs (m : Word) : (dropMarks m s).devs = s.devs := rfl
@[simp] theorem dropMarks_arg0 (m : Word) : (dropMarks m s).arg0 = s.arg0 := rfl
@[simp] theorem dropMarks_result (m : Word) : (dropMarks m s).result = s.result := rfl
@[simp] theorem dropMarks_compIe (m : Word) : (dropMarks m s).compIe = s.compIe := rfl
@[simp] theorem dropMarks_comp (m : Word) : (dropMarks m s).comp = s.comp := rfl
@[simp] theorem dropMarks_busData (m : Word) : (dropMarks m s).busData = s.busData := rfl
@[simp] theorem dropMarks_misconfigured (m : Word) : (dropMarks m s).misconfigured = s.misconfigured := rfl


/-! ### setXi -/

@[simp] theorem setXi_cfg (n : Nat) : (setXi n s).cfg = s.cfg := rfl
@[simp] theorem setXi_mem (n : Nat) : (setXi n s).mem = s.mem := rfl
@[simp] theorem setXi_trace (n : Nat) : (setXi n s).trace = s.trace := rfl
@[simp] theorem setXi_lineScript (n : Nat) : (setXi n s).lineScript = s.lineScript := rfl
@[simp] theorem setXi_draws (n : Nat) : (setXi n s).draws = s.draws := rfl
@[simp] theorem setXi_raced (n : Nat) : (setXi n s).raced = s.raced := rfl
@[simp] theorem setXi_agenda (n : Nat) : (setXi n s).agenda = s.agenda := rfl
@[simp] theorem setXi_gpioOut (n : Nat) : (setXi n s).gpioOut = s.gpioOut := rfl
@[simp] theorem setXi_gpioPP (n : Nat) : (setXi n s).gpioPP = s.gpioPP := rfl
@[simp] theorem setXi_gpioOD (n : Nat) : (setXi n s).gpioOD = s.gpioOD := rfl
@[simp] theorem setXi_srTx (n : Nat) : (setXi n s).srTx = s.srTx := rfl
@[simp] theorem setXi_srRx (n : Nat) : (setXi n s).srRx = s.srRx := rfl
@[simp] theorem setXi_hwCtrl (n : Nat) : (setXi n s).hwCtrl = s.hwCtrl := rfl
@[simp] theorem setXi_bitCnt (n : Nat) : (setXi n s).bitCnt = s.bitCnt := rfl
@[simp] theorem setXi_latch (n : Nat) : (setXi n s).latch = s.latch := rfl
@[simp] theorem setXi_pos (n : Nat) : (setXi n s).pos = { s.pos with xi := n } := rfl
@[simp] theorem setXi_speed (n : Nat) : (setXi n s).speed = s.speed := rfl
@[simp] theorem setXi_heldCs (n : Nat) : (setXi n s).heldCs = s.heldCs := rfl
@[simp] theorem setXi_inflight (n : Nat) : (setXi n s).inflight = s.inflight := rfl
@[simp] theorem setXi_queue (n : Nat) : (setXi n s).queue = s.queue := rfl
@[simp] theorem setXi_busy (n : Nat) : (setXi n s).busy = s.busy := rfl
@[simp] theorem setXi_worker (n : Nat) : (setXi n s).worker = s.worker := rfl
@[simp] theorem setXi_caller (n : Nat) : (setXi n s).caller = s.caller := rfl
@[simp] theorem setXi_answers (n : Nat) : (setXi n s).answers = s.answers := rfl
@[simp] theorem setXi_seq (n : Nat) : (setXi n s).seq = s.seq := rfl
@[simp] theorem setXi_ret (n : Nat) : (setXi n s).ret = s.ret := rfl
@[simp] theorem setXi_devs (n : Nat) : (setXi n s).devs = s.devs := rfl
@[simp] theorem setXi_arg0 (n : Nat) : (setXi n s).arg0 = s.arg0 := rfl
@[simp] theorem setXi_result (n : Nat) : (setXi n s).result = s.result := rfl
@[simp] theorem setXi_compIe (n : Nat) : (setXi n s).compIe = s.compIe := rfl
@[simp] theorem setXi_comp (n : Nat) : (setXi n s).comp = s.comp := rfl
@[simp] theorem setXi_busData (n : Nat) : (setXi n s).busData = s.busData := rfl
@[simp] theorem setXi_misconfigured (n : Nat) : (setXi n s).misconfigured = s.misconfigured := rfl


/-! ### setBi -/

@[simp] theorem setBi_cfg (n : Nat) : (setBi n s).cfg = s.cfg := rfl
@[simp] theorem setBi_mem (n : Nat) : (setBi n s).mem = s.mem := rfl
@[simp] theorem setBi_trace (n : Nat) : (setBi n s).trace = s.trace := rfl
@[simp] theorem setBi_lineScript (n : Nat) : (setBi n s).lineScript = s.lineScript := rfl
@[simp] theorem setBi_draws (n : Nat) : (setBi n s).draws = s.draws := rfl
@[simp] theorem setBi_raced (n : Nat) : (setBi n s).raced = s.raced := rfl
@[simp] theorem setBi_agenda (n : Nat) : (setBi n s).agenda = s.agenda := rfl
@[simp] theorem setBi_gpioOut (n : Nat) : (setBi n s).gpioOut = s.gpioOut := rfl
@[simp] theorem setBi_gpioPP (n : Nat) : (setBi n s).gpioPP = s.gpioPP := rfl
@[simp] theorem setBi_gpioOD (n : Nat) : (setBi n s).gpioOD = s.gpioOD := rfl
@[simp] theorem setBi_srTx (n : Nat) : (setBi n s).srTx = s.srTx := rfl
@[simp] theorem setBi_srRx (n : Nat) : (setBi n s).srRx = s.srRx := rfl
@[simp] theorem setBi_hwCtrl (n : Nat) : (setBi n s).hwCtrl = s.hwCtrl := rfl
@[simp] theorem setBi_bitCnt (n : Nat) : (setBi n s).bitCnt = s.bitCnt := rfl
@[simp] theorem setBi_latch (n : Nat) : (setBi n s).latch = s.latch := rfl
@[simp] theorem setBi_pos (n : Nat) : (setBi n s).pos = { s.pos with bi := n } := rfl
@[simp] theorem setBi_speed (n : Nat) : (setBi n s).speed = s.speed := rfl
@[simp] theorem setBi_heldCs (n : Nat) : (setBi n s).heldCs = s.heldCs := rfl
@[simp] theorem setBi_inflight (n : Nat) : (setBi n s).inflight = s.inflight := rfl
@[simp] theorem setBi_queue (n : Nat) : (setBi n s).queue = s.queue := rfl
@[simp] theorem setBi_busy (n : Nat) : (setBi n s).busy = s.busy := rfl
@[simp] theorem setBi_worker (n : Nat) : (setBi n s).worker = s.worker := rfl
@[simp] theorem setBi_caller (n : Nat) : (setBi n s).caller = s.caller := rfl
@[simp] theorem setBi_answers (n : Nat) : (setBi n s).answers = s.answers := rfl
@[simp] theorem setBi_seq (n : Nat) : (setBi n s).seq = s.seq := rfl
@[simp] theorem setBi_ret (n : Nat) : (setBi n s).ret = s.ret := rfl
@[simp] theorem setBi_devs (n : Nat) : (setBi n s).devs = s.devs := rfl
@[simp] theorem setBi_arg0 (n : Nat) : (setBi n s).arg0 = s.arg0 := rfl
@[simp] theorem setBi_result (n : Nat) : (setBi n s).result = s.result := rfl
@[simp] theorem setBi_compIe (n : Nat) : (setBi n s).compIe = s.compIe := rfl
@[simp] theorem setBi_comp (n : Nat) : (setBi n s).comp = s.comp := rfl
@[simp] theorem setBi_busData (n : Nat) : (setBi n s).busData = s.busData := rfl
@[simp] theorem setBi_misconfigured (n : Nat) : (setBi n s).misconfigured = s.misconfigured := rfl


/-! ### loadUnit -/

@[simp] theorem loadUnit_cfg (tx : Word) (count : BitVec 6) : (loadUnit tx count s).cfg = s.cfg := rfl
@[simp] theorem loadUnit_mem (tx : Word) (count : BitVec 6) : (loadUnit tx count s).mem = s.mem := rfl
@[simp] theorem loadUnit_trace (tx : Word) (count : BitVec 6) : (loadUnit tx count s).trace = s.trace := rfl
@[simp] theorem loadUnit_lineScript (tx : Word) (count : BitVec 6) : (loadUnit tx count s).lineScript = s.lineScript := rfl
@[simp] theorem loadUnit_draws (tx : Word) (count : BitVec 6) : (loadUnit tx count s).draws = s.draws := rfl
@[simp] theorem loadUnit_raced (tx : Word) (count : BitVec 6) : (loadUnit tx count s).raced = s.raced := rfl
@[simp] theorem loadUnit_agenda (tx : Word) (count : BitVec 6) : (loadUnit tx count s).agenda = s.agenda := rfl
@[simp] theorem loadUnit_gpioOut (tx : Word) (count : BitVec 6) : (loadUnit tx count s).gpioOut = s.gpioOut := rfl
@[simp] theorem loadUnit_gpioPP (tx : Word) (count : BitVec 6) : (loadUnit tx count s).gpioPP = s.gpioPP := rfl
@[simp] theorem loadUnit_gpioOD (tx : Word) (count : BitVec 6) : (loadUnit tx count s).gpioOD = s.gpioOD := rfl
@[simp] theorem loadUnit_srTx (tx : Word) (count : BitVec 6) : (loadUnit tx count s).srTx = tx := rfl
@[simp] theorem loadUnit_srRx (tx : Word) (count : BitVec 6) : (loadUnit tx count s).srRx = 0 := rfl
@[simp] theorem loadUnit_hwCtrl (tx : Word) (count : BitVec 6) : (loadUnit tx count s).hwCtrl = s.hwCtrl := rfl
@[simp] theorem loadUnit_bitCnt (tx : Word) (count : BitVec 6) : (loadUnit tx count s).bitCnt = count := rfl
@[simp] theorem loadUnit_latch (tx : Word) (count : BitVec 6) : (loadUnit tx count s).latch = s.latch := rfl
@[simp] theorem loadUnit_pos (tx : Word) (count : BitVec 6) : (loadUnit tx count s).pos = { s.pos with ki := 0 } := rfl
@[simp] theorem loadUnit_speed (tx : Word) (count : BitVec 6) : (loadUnit tx count s).speed = s.speed := rfl
@[simp] theorem loadUnit_heldCs (tx : Word) (count : BitVec 6) : (loadUnit tx count s).heldCs = s.heldCs := rfl
@[simp] theorem loadUnit_inflight (tx : Word) (count : BitVec 6) : (loadUnit tx count s).inflight = s.inflight := rfl
@[simp] theorem loadUnit_queue (tx : Word) (count : BitVec 6) : (loadUnit tx count s).queue = s.queue := rfl
@[simp] theorem loadUnit_busy (tx : Word) (count : BitVec 6) : (loadUnit tx count s).busy = s.busy := rfl
@[simp] theorem loadUnit_worker (tx : Word) (count : BitVec 6) : (loadUnit tx count s).worker = s.worker := rfl
@[simp] theorem loadUnit_caller (tx : Word) (count : BitVec 6) : (loadUnit tx count s).caller = s.caller := rfl
@[simp] theorem loadUnit_answers (tx : Word) (count : BitVec 6) : (loadUnit tx count s).answers = s.answers := rfl
@[simp] theorem loadUnit_seq (tx : Word) (count : BitVec 6) : (loadUnit tx count s).seq = s.seq := rfl
@[simp] theorem loadUnit_ret (tx : Word) (count : BitVec 6) : (loadUnit tx count s).ret = s.ret := rfl
@[simp] theorem loadUnit_devs (tx : Word) (count : BitVec 6) : (loadUnit tx count s).devs = s.devs := rfl
@[simp] theorem loadUnit_arg0 (tx : Word) (count : BitVec 6) : (loadUnit tx count s).arg0 = s.arg0 := rfl
@[simp] theorem loadUnit_result (tx : Word) (count : BitVec 6) : (loadUnit tx count s).result = s.result := rfl
@[simp] theorem loadUnit_compIe (tx : Word) (count : BitVec 6) : (loadUnit tx count s).compIe = s.compIe := rfl
@[simp] theorem loadUnit_comp (tx : Word) (count : BitVec 6) : (loadUnit tx count s).comp = s.comp := rfl
@[simp] theorem loadUnit_busData (tx : Word) (count : BitVec 6) : (loadUnit tx count s).busData = s.busData := rfl
@[simp] theorem loadUnit_misconfigured (tx : Word) (count : BitVec 6) : (loadUnit tx count s).misconfigured = s.misconfigured := rfl


/-! ### countBit -/

@[simp] theorem countBit_cfg : (countBit s).cfg = s.cfg := rfl
@[simp] theorem countBit_mem : (countBit s).mem = s.mem := rfl
@[simp] theorem countBit_trace : (countBit s).trace = s.trace := rfl
@[simp] theorem countBit_lineScript : (countBit s).lineScript = s.lineScript := rfl
@[simp] theorem countBit_draws : (countBit s).draws = s.draws := rfl
@[simp] theorem countBit_raced : (countBit s).raced = s.raced := rfl
@[simp] theorem countBit_agenda : (countBit s).agenda = s.agenda := rfl
@[simp] theorem countBit_gpioOut : (countBit s).gpioOut = s.gpioOut := rfl
@[simp] theorem countBit_gpioPP : (countBit s).gpioPP = s.gpioPP := rfl
@[simp] theorem countBit_gpioOD : (countBit s).gpioOD = s.gpioOD := rfl
@[simp] theorem countBit_srTx : (countBit s).srTx = s.srTx := rfl
@[simp] theorem countBit_srRx : (countBit s).srRx = s.srRx := rfl
@[simp] theorem countBit_hwCtrl : (countBit s).hwCtrl = s.hwCtrl := rfl
@[simp] theorem countBit_bitCnt : (countBit s).bitCnt = s.bitCnt - 1 := rfl
@[simp] theorem countBit_latch : (countBit s).latch = s.latch := rfl
@[simp] theorem countBit_pos : (countBit s).pos = { s.pos with ki := s.pos.ki + 1 } := rfl
@[simp] theorem countBit_speed : (countBit s).speed = s.speed := rfl
@[simp] theorem countBit_heldCs : (countBit s).heldCs = s.heldCs := rfl
@[simp] theorem countBit_inflight : (countBit s).inflight = s.inflight := rfl
@[simp] theorem countBit_queue : (countBit s).queue = s.queue := rfl
@[simp] theorem countBit_busy : (countBit s).busy = s.busy := rfl
@[simp] theorem countBit_worker : (countBit s).worker = s.worker := rfl
@[simp] theorem countBit_caller : (countBit s).caller = s.caller := rfl
@[simp] theorem countBit_answers : (countBit s).answers = s.answers := rfl
@[simp] theorem countBit_seq : (countBit s).seq = s.seq := rfl
@[simp] theorem countBit_ret : (countBit s).ret = s.ret := rfl
@[simp] theorem countBit_devs : (countBit s).devs = s.devs := rfl
@[simp] theorem countBit_arg0 : (countBit s).arg0 = s.arg0 := rfl
@[simp] theorem countBit_result : (countBit s).result = s.result := rfl
@[simp] theorem countBit_compIe : (countBit s).compIe = s.compIe := rfl
@[simp] theorem countBit_comp : (countBit s).comp = s.comp := rfl
@[simp] theorem countBit_busData : (countBit s).busData = s.busData := rfl
@[simp] theorem countBit_misconfigured : (countBit s).misconfigured = s.misconfigured := rfl


/-! ### endUnit -/

@[simp] theorem endUnit_cfg : (endUnit s).cfg = s.cfg := rfl
@[simp] theorem endUnit_mem : (endUnit s).mem = s.mem := rfl
@[simp] theorem endUnit_trace : (endUnit s).trace = s.trace := rfl
@[simp] theorem endUnit_lineScript : (endUnit s).lineScript = s.lineScript := rfl
@[simp] theorem endUnit_draws : (endUnit s).draws = s.draws := rfl
@[simp] theorem endUnit_raced : (endUnit s).raced = s.raced := rfl
@[simp] theorem endUnit_agenda : (endUnit s).agenda = s.agenda := rfl
@[simp] theorem endUnit_gpioOut : (endUnit s).gpioOut = s.gpioOut := rfl
@[simp] theorem endUnit_gpioPP : (endUnit s).gpioPP = s.gpioPP := rfl
@[simp] theorem endUnit_gpioOD : (endUnit s).gpioOD = s.gpioOD := rfl
@[simp] theorem endUnit_srTx : (endUnit s).srTx = s.srTx := rfl
@[simp] theorem endUnit_srRx : (endUnit s).srRx = s.srRx := rfl
@[simp] theorem endUnit_hwCtrl : (endUnit s).hwCtrl = s.hwCtrl := rfl
@[simp] theorem endUnit_bitCnt : (endUnit s).bitCnt = s.bitCnt := rfl
@[simp] theorem endUnit_latch : (endUnit s).latch = s.latch := rfl
@[simp] theorem endUnit_pos : (endUnit s).pos = { s.pos with ki := 0 } := rfl
@[simp] theorem endUnit_speed : (endUnit s).speed = s.speed := rfl
@[simp] theorem endUnit_heldCs : (endUnit s).heldCs = s.heldCs := rfl
@[simp] theorem endUnit_inflight : (endUnit s).inflight = s.inflight := rfl
@[simp] theorem endUnit_queue : (endUnit s).queue = s.queue := rfl
@[simp] theorem endUnit_busy : (endUnit s).busy = s.busy := rfl
@[simp] theorem endUnit_worker : (endUnit s).worker = s.worker := rfl
@[simp] theorem endUnit_caller : (endUnit s).caller = s.caller := rfl
@[simp] theorem endUnit_answers : (endUnit s).answers = s.answers := rfl
@[simp] theorem endUnit_seq : (endUnit s).seq = s.seq := rfl
@[simp] theorem endUnit_ret : (endUnit s).ret = s.ret := rfl
@[simp] theorem endUnit_devs : (endUnit s).devs = s.devs := rfl
@[simp] theorem endUnit_arg0 : (endUnit s).arg0 = s.arg0 := rfl
@[simp] theorem endUnit_result : (endUnit s).result = s.result := rfl
@[simp] theorem endUnit_compIe : (endUnit s).compIe = s.compIe := rfl
@[simp] theorem endUnit_comp : (endUnit s).comp = s.comp := rfl
@[simp] theorem endUnit_busData : (endUnit s).busData = s.busData := rfl
@[simp] theorem endUnit_misconfigured : (endUnit s).misconfigured = s.misconfigured := rfl


/-! ### setSpeed -/

@[simp] theorem setSpeed_cfg (hz : Word) : (setSpeed hz s).cfg = s.cfg := rfl
@[simp] theorem setSpeed_mem (hz : Word) : (setSpeed hz s).mem = s.mem := rfl
@[simp] theorem setSpeed_trace (hz : Word) : (setSpeed hz s).trace = s.trace := rfl
@[simp] theorem setSpeed_lineScript (hz : Word) : (setSpeed hz s).lineScript = s.lineScript := rfl
@[simp] theorem setSpeed_draws (hz : Word) : (setSpeed hz s).draws = s.draws := rfl
@[simp] theorem setSpeed_raced (hz : Word) : (setSpeed hz s).raced = s.raced := rfl
@[simp] theorem setSpeed_agenda (hz : Word) : (setSpeed hz s).agenda = s.agenda := rfl
@[simp] theorem setSpeed_gpioOut (hz : Word) : (setSpeed hz s).gpioOut = s.gpioOut := rfl
@[simp] theorem setSpeed_gpioPP (hz : Word) : (setSpeed hz s).gpioPP = s.gpioPP := rfl
@[simp] theorem setSpeed_gpioOD (hz : Word) : (setSpeed hz s).gpioOD = s.gpioOD := rfl
@[simp] theorem setSpeed_srTx (hz : Word) : (setSpeed hz s).srTx = s.srTx := rfl
@[simp] theorem setSpeed_srRx (hz : Word) : (setSpeed hz s).srRx = s.srRx := rfl
@[simp] theorem setSpeed_hwCtrl (hz : Word) : (setSpeed hz s).hwCtrl = s.hwCtrl := rfl
@[simp] theorem setSpeed_bitCnt (hz : Word) : (setSpeed hz s).bitCnt = s.bitCnt := rfl
@[simp] theorem setSpeed_latch (hz : Word) : (setSpeed hz s).latch = s.latch := rfl
@[simp] theorem setSpeed_pos (hz : Word) : (setSpeed hz s).pos = s.pos := rfl
@[simp] theorem setSpeed_speed (hz : Word) : (setSpeed hz s).speed = speedFor s.cfg hz := rfl
@[simp] theorem setSpeed_heldCs (hz : Word) : (setSpeed hz s).heldCs = s.heldCs := rfl
@[simp] theorem setSpeed_inflight (hz : Word) : (setSpeed hz s).inflight = s.inflight := rfl
@[simp] theorem setSpeed_queue (hz : Word) : (setSpeed hz s).queue = s.queue := rfl
@[simp] theorem setSpeed_busy (hz : Word) : (setSpeed hz s).busy = s.busy := rfl
@[simp] theorem setSpeed_worker (hz : Word) : (setSpeed hz s).worker = s.worker := rfl
@[simp] theorem setSpeed_caller (hz : Word) : (setSpeed hz s).caller = s.caller := rfl
@[simp] theorem setSpeed_answers (hz : Word) : (setSpeed hz s).answers = s.answers := rfl
@[simp] theorem setSpeed_seq (hz : Word) : (setSpeed hz s).seq = s.seq := rfl
@[simp] theorem setSpeed_ret (hz : Word) : (setSpeed hz s).ret = s.ret := rfl
@[simp] theorem setSpeed_devs (hz : Word) : (setSpeed hz s).devs = s.devs := rfl
@[simp] theorem setSpeed_arg0 (hz : Word) : (setSpeed hz s).arg0 = s.arg0 := rfl
@[simp] theorem setSpeed_result (hz : Word) : (setSpeed hz s).result = s.result := rfl
@[simp] theorem setSpeed_compIe (hz : Word) : (setSpeed hz s).compIe = s.compIe := rfl
@[simp] theorem setSpeed_comp (hz : Word) : (setSpeed hz s).comp = s.comp := rfl
@[simp] theorem setSpeed_busData (hz : Word) : (setSpeed hz s).busData = s.busData := rfl
@[simp] theorem setSpeed_misconfigured (hz : Word) : (setSpeed hz s).misconfigured = s.misconfigured := rfl

end Sys2Proof.Machine
end

