-- ==== Sys2Proof/Laws/Memory.lean ====
section
/-! SUPPORT. Host memory as data: a read after a write, and that every memory operation keeps the canonical
form. -/

namespace Sys2Proof.Machine

/-- The first cell at address `a` of a list, as a byte. -/
theorem read_eq (m : Memory) (a : Nat) : m.read a = (m.cells.find? (fun cell => cell.1 == a)).map Prod.snd := by
  unfold Memory.read
  cases m.cells.find? (fun cell => cell.1 == a) <;> rfl

theorem find_insertCell (a x : Nat) (b : Byte) (l : List Host.Cell) :
    ((insertCell a b l).find? (fun cell => cell.1 == x)).map Prod.snd
      = if x = a then some b else (l.find? (fun cell => cell.1 == x)).map Prod.snd := by
  induction l with
  | nil =>
    by_cases h : x = a
    · simp [insertCell, h]
    · simp [insertCell, Ne.symm h, h]
  | cons cell rest ih =>
    unfold insertCell
    split
    · by_cases h : x = a
      · simp [h]
      · simp [List.find?_cons, Ne.symm h, h]
    · split
      · by_cases h : x = a
        · simp [h]
        · have hc : (cell.1 == x) = false := by simp; omega
          simp [Ne.symm h, h, hc]
      · rename_i h1 h2
        by_cases hx : cell.1 = x
        · have : x ≠ a := by omega
          simp [hx, this]
        · have hc : (cell.1 == x) = false := by simpa using hx
          simp only [List.find?_cons, hc]
          exact ih

/-- A read after a write: the byte written at its address, the old contents elsewhere. -/
theorem read_write (m : Memory) (a x : Nat) (b : Byte) :
    (m.write a b).read x = if x = a then some b else m.read x := by
  rw [read_eq, read_eq]; exact find_insertCell a x b m.cells

@[simp] theorem read_write_same (m : Memory) (a : Nat) (b : Byte) : (m.write a b).read a = some b := by
  simp [read_write]

theorem read_write_other (m : Memory) (a x : Nat) (b : Byte) (h : x ≠ a) :
    (m.write a b).read x = m.read x := by simp [read_write, h]

theorem risingAbove_insert (low a : Nat) (b : Byte) (l : List Host.Cell) (hl : low < a)
    (h : risingAbove low l = true) : risingAbove low (insertCell a b l) = true := by
  induction l generalizing low with
  | nil => simp [insertCell, risingAbove, hl]
  | cons cell rest ih =>
    simp only [risingAbove, Bool.and_eq_true, decide_eq_true_eq] at h
    unfold insertCell
    split
    · simp [risingAbove, hl, h.2]; omega
    · split
      · rename_i h2; subst h2; simp [risingAbove, hl, h.2]
      · simp only [risingAbove, Bool.and_eq_true, decide_eq_true_eq]
        exact ⟨h.1, ih cell.1 (by omega) h.2⟩

theorem all_insertCell (p : Host.Cell → Bool) (a : Nat) (b : Byte) (l : List Host.Cell)
    (hp : p (a, b) = true) (h : l.all p = true) : (insertCell a b l).all p = true := by
  induction l with
  | nil => simp [insertCell, hp]
  | cons cell rest ih =>
    simp only [List.all_cons, Bool.and_eq_true] at h
    unfold insertCell
    split
    · simp only [List.all_cons, Bool.and_eq_true]; exact ⟨hp, h.1, h.2⟩
    · split
      · simp only [List.all_cons, Bool.and_eq_true]; exact ⟨hp, h.2⟩
      · simp only [List.all_cons, Bool.and_eq_true]; exact ⟨h.1, ih h.2⟩

theorem rising_insert (a : Nat) (b : Byte) (l : List Host.Cell) (h : rising l = true) :
    rising (insertCell a b l) = true := by
  cases l with
  | nil => rfl
  | cons cell rest =>
    unfold insertCell
    split
    · simp only [rising, risingAbove, Bool.and_eq_true, decide_eq_true_eq]; exact ⟨by assumption, h⟩
    · split
      · rename_i h2; subst h2; exact h
      · exact risingAbove_insert cell.1 a b rest (by omega) h

/-- A write keeps the canonical form. -/
theorem write_wf (m : Memory) (a : Nat) (b : Byte) (ha : a < 2 ^ 32) (h : m.wf = true) :
    (m.write a b).wf = true := by
  unfold Memory.wf at h ⊢
  rw [Bool.and_eq_true] at h ⊢
  exact ⟨rising_insert a b m.cells h.1, all_insertCell _ a b m.cells (by simpa using ha) h.2⟩

theorem storeByte_wf (a : Word) (b : Byte) (s : State) (h : s.mem.wf = true) :
    (storeByte a b s).mem.wf = true := write_wf s.mem a.toNat b a.isLt h

@[simp] theorem memWrite1_mem (a : Word) (b : Byte) (s : State) :
    (memWrite1 a b s).mem = s.mem.write a.toNat b := rfl

theorem memWrite1_wf (a : Word) (b : Byte) (s : State) (h : s.mem.wf = true) :
    (memWrite1 a b s).mem.wf = true := storeByte_wf a b s h

theorem memWrite4_wf (a v : Word) (s : State) (h : s.mem.wf = true) : (memWrite4 a v s).mem.wf = true := by
  unfold memWrite4
  simp only [emit_mem]
  exact storeByte_wf _ _ _ (storeByte_wf _ _ _ (storeByte_wf _ _ _ (storeByte_wf _ _ _ h)))

theorem hostStore_wf (a : Word) (b : Byte) (s : State) (h : s.mem.wf = true) : (hostStore a b s).mem.wf = true :=
  storeByte_wf a b s h

/-- A constructed controller's memory, with nothing listed, is canonical. -/
theorem constructed_mem_wf (c : Config) : (State.constructed c).mem.wf = true := by
  unfold State.constructed; split <;> rfl

theorem reset_mem_wf : State.reset.mem.wf = true := constructed_mem_wf _

end Sys2Proof.Machine
end

