-- ==== Sys2Proof/Laws/Ops.lean ====
section
/-! SUPPORT. One lemma per shared operation that says all it does, and the relation `SameControl`: everything
the engine and the lines never write. Later proofs cite these and unfold nothing. -/

namespace Sys2Proof.Machine

/-! ### Closed forms -/

@[simp] theorem flushLines_eq (s : State) : flushLines s = s := by
  unfold flushLines readBack; split <;> rfl

theorem lineSet_eq (high low : Word) (s : State) :
    lineSet high low s =
      { s with gpioOut := (s.gpioOut ||| high) &&& ~~~low, trace := s.trace ++ [.lineSet high low] } := by
  unfold lineSet; rw [flushLines_eq]; rfl

theorem lineGet_eq (s : State) :
    lineGet s =
      (s.lineAnswer,
        { s with lineScript := s.lineScript.tail, draws := s.draws + 1
                 trace := s.trace ++ [.lineGet s.lineAnswer] }) := rfl

theorem waitNs_eq (ns : Word) (s : State) :
    waitNs ns s = { s with trace := s.trace ++ (if ns = 0 then [] else [.delay ns]) } := by
  unfold waitNs; split <;> simp [emit]

theorem memRead1_eq (a : Word) (s : State) :
    memRead1 a s =
      (s.byteAt a, { s with draws := s.draws + 1
                            trace := s.trace ++ [.memRead a 1 ((s.byteAt a).setWidth 32)] }) := rfl

theorem memRead4_eq (a : Word) (s : State) :
    memRead4 a s =
      (s.wordAt a, { s with draws := s.draws + 1, trace := s.trace ++ [.memRead a 4 (s.wordAt a)] }) := rfl

theorem memWrite1_eq (a : Word) (b : Byte) (s : State) :
    memWrite1 a b s =
      { s with mem := s.mem.write a.toNat b, trace := s.trace ++ [.memWrite a 1 (b.setWidth 32)] } := rfl

theorem memWrite4_eq (a v : Word) (s : State) :
    memWrite4 a v s =
      { s with mem := (((s.mem.write a.toNat (v.extractLsb' 0 8)).write (a + 1).toNat (v.extractLsb' 8 8)).write
                        (a + 2).toNat (v.extractLsb' 16 8)).write (a + 3).toNat (v.extractLsb' 24 8)
               trace := s.trace ++ [.memWrite a 4 v] } := rfl

/-! ### Reads depend on memory, the marks, the Message in the sequencer and the draw counter only -/

theorem byteAt_eq_of_mem (s t : State) (a : Word) (hm : t.mem = s.mem) (hr : t.raced = s.raced)
    (hi : t.inflight = s.inflight) (hd : t.draws = s.draws ∨ s.isRaced a = false) :
    t.byteAt a = s.byteAt a := by
  have hR : t.isRaced a = s.isRaced a := by unfold State.isRaced; rw [hi, hr]
  unfold State.byteAt
  rw [hR, hm]
  rcases hd with h | h
  · rw [h]
  · simp [h]

/-- With no byte raced, a read is a function of memory alone. -/
theorem byteAt_of_not_raced (s : State) (a : Word) (h : s.raced = []) :
    s.byteAt a = (s.mem.read a.toNat).getD (Config.unwrittenByte a) := by
  have : s.isRaced a = false := by
    unfold State.isRaced; cases s.inflight <;> simp [h]
  unfold State.byteAt
  cases hm : s.mem.read a.toNat <;> simp [this]

/-! ### What the engine, the lines and the reads never write -/

/-- The fields no line, engine, speed or memory operation writes. -/
structure SameControl (s t : State) : Prop where
  cfg : t.cfg = s.cfg
  raced : t.raced = s.raced
  agenda : t.agenda = s.agenda
  heldCs : t.heldCs = s.heldCs
  inflight : t.inflight = s.inflight
  queue : t.queue = s.queue
  busy : t.busy = s.busy
  worker : t.worker = s.worker
  caller : t.caller = s.caller
  answers : t.answers = s.answers
  seq : t.seq = s.seq
  ret : t.ret = s.ret
  devs : t.devs = s.devs
  arg0 : t.arg0 = s.arg0
  result : t.result = s.result
  compIe : t.compIe = s.compIe
  comp : t.comp = s.comp
  busData : t.busData = s.busData
  misconfigured : t.misconfigured = s.misconfigured
  gpioPP : t.gpioPP = s.gpioPP
  gpioOD : t.gpioOD = s.gpioOD

theorem SameControl.refl (s : State) : SameControl s s := by constructor <;> rfl

theorem SameControl.trans {s t u : State} (h : SameControl s t) (k : SameControl t u) : SameControl s u where
  cfg := k.cfg.trans h.cfg
  raced := k.raced.trans h.raced
  agenda := k.agenda.trans h.agenda
  heldCs := k.heldCs.trans h.heldCs
  inflight := k.inflight.trans h.inflight
  queue := k.queue.trans h.queue
  busy := k.busy.trans h.busy
  worker := k.worker.trans h.worker
  caller := k.caller.trans h.caller
  answers := k.answers.trans h.answers
  seq := k.seq.trans h.seq
  ret := k.ret.trans h.ret
  devs := k.devs.trans h.devs
  arg0 := k.arg0.trans h.arg0
  result := k.result.trans h.result
  compIe := k.compIe.trans h.compIe
  comp := k.comp.trans h.comp
  busData := k.busData.trans h.busData
  misconfigured := k.misconfigured.trans h.misconfigured
  gpioPP := k.gpioPP.trans h.gpioPP
  gpioOD := k.gpioOD.trans h.gpioOD

theorem SameControl.dev {s t : State} (h : SameControl s t) (d : Slot) : t.dev d = s.dev d := by
  unfold State.dev; simp only [h.devs]

theorem SameControl.ready {s t : State} (h : SameControl s t) (d : Slot) : t.ready d = s.ready d := by
  unfold State.ready; rw [h.dev, h.cfg]

theorem sameControl_lineSet (high low : Word) (s : State) : SameControl s (lineSet high low s) := by
  rw [lineSet_eq]; constructor <;> rfl

theorem sameControl_lineTo (n : Nat) (v : Bool) (s : State) : SameControl s (lineTo n v s) :=
  sameControl_lineSet _ _ _

theorem sameControl_sckTo (v : Bool) (s : State) : SameControl s (sckTo v s) := sameControl_lineTo _ _ _

theorem sameControl_mosiTo (v : Bool) (s : State) : SameControl s (mosiTo v s) := sameControl_lineTo _ _ _

theorem sameControl_csTo (d : Slot) (v : Bool) (s : State) : SameControl s (csTo d v s) :=
  sameControl_lineTo _ _ _

theorem sameControl_waitNs (ns : Word) (s : State) : SameControl s (waitNs ns s) := by
  rw [waitNs_eq]; constructor <;> rfl

theorem sameControl_lineGet (s : State) : SameControl s (lineGet s).2 := by constructor <;> rfl

theorem sameControl_sampleMiso (s : State) : SameControl s (sampleMiso s) := by constructor <;> rfl

theorem sameControl_memRead1 (a : Word) (s : State) : SameControl s (memRead1 a s).2 := by
  constructor <;> rfl

theorem sameControl_memRead4 (a : Word) (s : State) : SameControl s (memRead4 a s).2 := by
  constructor <;> rfl

theorem sameControl_memWrite1 (a : Word) (b : Byte) (s : State) : SameControl s (memWrite1 a b s) := by
  constructor <;> rfl

theorem sameControl_memWrite4 (a v : Word) (s : State) : SameControl s (memWrite4 a v s) := by
  constructor <;> rfl

theorem sameControl_setXi (n : Nat) (s : State) : SameControl s (setXi n s) := by constructor <;> rfl

theorem sameControl_setBi (n : Nat) (s : State) : SameControl s (setBi n s) := by constructor <;> rfl

theorem sameControl_loadUnit (tx : Word) (c : BitVec 6) (s : State) : SameControl s (loadUnit tx c s) := by
  constructor <;> rfl

theorem sameControl_countBit (s : State) : SameControl s (countBit s) := by constructor <;> rfl

theorem sameControl_endUnit (s : State) : SameControl s (endUnit s) := by constructor <;> rfl

theorem sameControl_setSpeed (hz : Word) (s : State) : SameControl s (setSpeed hz s) := by
  constructor <;> rfl

/-! ### What one unit on the wire leaves alone besides -/

/-- The fields a shift does not write: those of `SameControl`, host memory, the mode latch, the speed state
and the position of the Message and of the byte (R102 to R106 *State written*). -/
structure SameUnit (s t : State) : Prop extends SameControl s t where
  mem : t.mem = s.mem
  latch : t.latch = s.latch
  speed : t.speed = s.speed
  xi : t.pos.xi = s.pos.xi
  bi : t.pos.bi = s.pos.bi

theorem SameUnit.refl (s : State) : SameUnit s s := { SameControl.refl s with
  mem := rfl, latch := rfl, speed := rfl, xi := rfl, bi := rfl }

theorem SameUnit.trans {s t u : State} (h : SameUnit s t) (k : SameUnit t u) : SameUnit s u :=
  { h.toSameControl.trans k.toSameControl with
    mem := k.mem.trans h.mem
    latch := k.latch.trans h.latch
    speed := k.speed.trans h.speed
    xi := k.xi.trans h.xi
    bi := k.bi.trans h.bi }

theorem sameUnit_lineTo (n : Nat) (v : Bool) (s : State) : SameUnit s (lineTo n v s) := by
  unfold lineTo; rw [lineSet_eq]; constructor <;> first | rfl | (constructor <;> rfl)

theorem sameUnit_sckTo (v : Bool) (s : State) : SameUnit s (sckTo v s) := sameUnit_lineTo _ _ _

theorem sameUnit_mosiTo (v : Bool) (s : State) : SameUnit s (mosiTo v s) := sameUnit_lineTo _ _ _

theorem sameUnit_halfBit (s : State) : SameUnit s (halfBit s) := by
  unfold halfBit; rw [waitNs_eq]; constructor <;> first | rfl | (constructor <;> rfl)

theorem sameUnit_sampleMiso (s : State) : SameUnit s (sampleMiso s) := by
  constructor <;> first | rfl | (constructor <;> rfl)

theorem sameUnit_sampleIf (w : Bool) (s : State) : SameUnit s (sampleIf w s) := by
  unfold sampleIf; split
  · exact sameUnit_sampleMiso s
  · exact SameUnit.refl s

theorem sameUnit_countBit (s : State) : SameUnit s (countBit s) := by
  constructor <;> first | rfl | (constructor <;> rfl)

theorem sameUnit_endUnit (s : State) : SameUnit s (endUnit s) := by
  constructor <;> first | rfl | (constructor <;> rfl)

theorem sameUnit_bitPhase0 (w cpol b : Bool) (s : State) : SameUnit s (bitPhase0 w cpol b s) :=
  (sameUnit_mosiTo b s).trans <| (sameUnit_halfBit _).trans <| (sameUnit_sckTo _ _).trans <|
    (sameUnit_halfBit _).trans <| (sameUnit_sampleIf w _).trans <| (sameUnit_sckTo _ _).trans <|
      sameUnit_countBit _

theorem sameUnit_bitPhase1 (w cpol b : Bool) (s : State) : SameUnit s (bitPhase1 w cpol b s) :=
  (sameUnit_sckTo _ s).trans <| (sameUnit_mosiTo b _).trans <| (sameUnit_halfBit _).trans <|
    (sameUnit_sckTo _ _).trans <| (sameUnit_halfBit _).trans <| (sameUnit_sampleIf w _).trans <|
      sameUnit_countBit _

theorem sameUnit_bitHw (cpol b : Bool) (s : State) : SameUnit s (bitHw cpol b s) :=
  (sameUnit_mosiTo b s).trans <| (sameUnit_sckTo _ _).trans <| (sameUnit_sampleMiso _).trans <|
    (sameUnit_sckTo _ _).trans <| sameUnit_countBit _

/-- A loop of bits leaves alone what one bit leaves alone. -/
theorem sameUnit_shiftBits (one : Bool → State → State) (h : ∀ b s, SameUnit s (one b s)) :
    ∀ k s, SameUnit s (shiftBits one k s)
  | 0, s => SameUnit.refl s
  | k + 1, s => (h _ s).trans (sameUnit_shiftBits one h k _)

theorem sameUnit_shiftByte (cpha cpol w : Bool) (tx : Byte) (s : State) :
    SameUnit s (shiftByte cpha cpol w tx s).2 := by
  have hone : ∀ b u, SameUnit u ((if cpha then bitPhase1 w cpol else bitPhase0 w cpol) b u) := by
    intro b u; cases cpha
    · exact sameUnit_bitPhase0 w cpol b u
    · exact sameUnit_bitPhase1 w cpol b u
  have h0 : SameUnit s (loadUnit ((s.srTx &&& 0xFFFFFF00) ||| tx.setWidth 32) 8 s) := by
    constructor <;> first | rfl | (constructor <;> rfl)
  exact h0.trans <| (sameUnit_shiftBits _ hone 8 _).trans (sameUnit_endUnit _)

theorem sameUnit_shiftWord (cs : Slot) (cpol : Bool) (count : BitVec 6) (tx : Word) (s : State) :
    SameUnit s (shiftWord cs cpol count tx s).2 := by
  have h0 : SameUnit s
      (loadUnit tx count { s with hwCtrl := (encode (.shiftWord cs cpol count tx)).header }) := by
    constructor <;> first | rfl | (constructor <;> rfl)
  exact h0.trans <| (sameUnit_shiftBits _ (sameUnit_bitHw cpol) count.toNat _).trans (sameUnit_endUnit _)

/-! ### Transfers and Messages -/

/-- The fields a Transfer does not write besides those of `SameControl`: the mode latch, the speed state and
the index of the Transfer (R110 *State written*). -/
structure SameTransfer (s t : State) : Prop extends SameControl s t where
  latch : t.latch = s.latch
  speed : t.speed = s.speed
  xi : t.pos.xi = s.pos.xi

theorem SameTransfer.refl (s : State) : SameTransfer s s := { SameControl.refl s with
  latch := rfl, speed := rfl, xi := rfl }

theorem SameTransfer.trans {s t u : State} (h : SameTransfer s t) (k : SameTransfer t u) : SameTransfer s u :=
  { h.toSameControl.trans k.toSameControl with
    latch := k.latch.trans h.latch
    speed := k.speed.trans h.speed
    xi := k.xi.trans h.xi }

theorem SameUnit.toTransfer {s t : State} (h : SameUnit s t) : SameTransfer s t :=
  { h.toSameControl with latch := h.latch, speed := h.speed, xi := h.xi }

theorem sameTransfer_setBi (n : Nat) (s : State) : SameTransfer s (setBi n s) := by
  constructor <;> first | rfl | (constructor <;> rfl)

theorem sameTransfer_memRead1 (a : Word) (s : State) : SameTransfer s (memRead1 a s).2 := by
  constructor <;> first | rfl | (constructor <;> rfl)

theorem sameTransfer_memWrite1 (a : Word) (b : Byte) (s : State) : SameTransfer s (memWrite1 a b s) := by
  constructor <;> first | rfl | (constructor <;> rfl)

theorem sameTransfer_txByte (t : Transfer) (n : Nat) (s : State) : SameTransfer s (txByte t n s).2 := by
  unfold txByte; split
  · exact SameTransfer.refl s
  · exact sameTransfer_memRead1 _ s

theorem sameTransfer_txWord (t : Transfer) (n : Nat) (s : State) : SameTransfer s (txWord t n s).2 := by
  unfold txWord; split
  · exact SameTransfer.refl s
  · exact (sameTransfer_memRead1 _ s).trans <| (sameTransfer_memRead1 _ _).trans <|
      (sameTransfer_memRead1 _ _).trans (sameTransfer_memRead1 _ _)

theorem sameTransfer_rxWord (t : Transfer) (n : Nat) (r : Word) (s : State) :
    SameTransfer s (rxWord t n r s) := by
  unfold rxWord; split
  · exact SameTransfer.refl s
  · exact (sameTransfer_memWrite1 _ _ s).trans <| (sameTransfer_memWrite1 _ _ _).trans <|
      (sameTransfer_memWrite1 _ _ _).trans (sameTransfer_memWrite1 _ _ _)

theorem sameTransfer_fastLoop (d : Slot) (t : Transfer) :
    ∀ k n s, SameTransfer s (fastLoop d t k n s).state
  | 0, _, s => SameTransfer.refl s
  | k + 1, n, s => by
    have h : SameTransfer s
        (shiftWord d s.latch.cpol 32 (txWord t n (setBi n s)).1 (txWord t n (setBi n s)).2).2 :=
      (sameTransfer_setBi n s).trans <| (sameTransfer_txWord t n _).trans
        (sameUnit_shiftWord _ _ _ _ _).toTransfer
    simp only [fastLoop]
    split
    · exact h
    · exact h.trans <| (sameTransfer_rxWord t n _ _).trans (sameTransfer_fastLoop d t k _ _)

theorem sameTransfer_byteLoop (t : Transfer) : ∀ k n s, SameTransfer s (byteLoop t k n s).state
  | 0, _, s => SameTransfer.refl s
  | k + 1, n, s => by
    have h : SameTransfer s
        (shiftByte s.latch.cpha s.latch.cpol (decide (t.rxPtr ≠ 0)) (txByte t n (setBi n s)).1
          (txByte t n (setBi n s)).2).2 :=
      (sameTransfer_setBi n s).trans <| (sameTransfer_txByte t n _).trans
        (sameUnit_shiftByte _ _ _ _ _).toTransfer
    simp only [byteLoop]
    split
    · split
      · exact h.trans <| (sameTransfer_memRead1 _ _).trans (sameTransfer_byteLoop t k _ _)
      · exact h.trans (sameTransfer_memRead1 _ _)
    · split
      · exact h.trans <| (sameTransfer_memWrite1 _ _ _).trans (sameTransfer_byteLoop t k _ _)
      · exact h.trans (sameTransfer_byteLoop t k _ _)

theorem sameTransfer_fastPart (d : Slot) (t : Transfer) (s : State) :
    SameTransfer s (fastPart d t s).state := by
  unfold fastPart; split
  · exact sameTransfer_fastLoop d t _ _ s
  · exact SameTransfer.refl s

theorem sameTransfer_bytePart (t : Transfer) (p : Progress) : SameTransfer p.state (bytePart t p).state := by
  unfold bytePart; split
  · exact SameTransfer.refl _
  · exact sameTransfer_byteLoop t _ _ _

theorem sameTransfer_xfer (d : Slot) (t : Transfer) (s : State) : SameTransfer s (xfer d t s).2 :=
  (sameTransfer_fastPart d t s).trans <| (sameTransfer_bytePart t _).trans (sameTransfer_setBi 0 _)

theorem sameControl_setupHook (d : Slot) (s : State) : SameControl s (setupHook d s) := by
  unfold setupHook; simp only; split
  · exact SameControl.refl s
  · exact sameControl_lineSet _ _ s

theorem sameControl_teardownHook (d : Slot) (s : State) : SameControl s (teardownHook d s) := by
  have h : SameControl s (if (s.cfg.slot d).auxHigh ||| (s.cfg.slot d).auxLow = 0 then s
      else lineSet (s.cfg.slot d).auxLow (s.cfg.slot d).auxHigh s) := by
    split
    · exact SameControl.refl s
    · exact sameControl_lineSet _ _ s
  unfold teardownHook
  simp only
  split
  · exact h
  · exact h.trans ((sameControl_lineSet _ _ _).trans (sameControl_lineSet _ _ _))

theorem sameControl_csAssert (d : Slot) (s : State) : SameControl s (csAssert d s) := by
  refine SameControl.trans (t := { s with latch := _ }) ?_ ((sameControl_sckTo _ _).trans
    ((sameControl_csTo d _ _).trans (sameControl_setupHook d _)))
  constructor <;> rfl

theorem sameControl_csDeassert (d : Slot) (s : State) : SameControl s (csDeassert d s) :=
  (sameControl_csTo d _ s).trans (sameControl_teardownHook d _)

theorem sameControl_releaseHeld (h : Option Slot) (s : State) : SameControl s (releaseHeld h s) := by
  cases h
  · exact SameControl.refl s
  · exact sameControl_csDeassert _ s

theorem sameControl_readTransfer (a : Word) (s : State) : SameControl s (readTransfer a s).2 :=
  (sameControl_memRead4 _ s).trans <| (sameControl_memRead4 _ _).trans <| (sameControl_memRead4 _ _).trans <|
    (sameControl_memRead4 _ _).trans (sameControl_memRead4 _ _)

theorem sameControl_applySpeed {hz : Word} {s t : State} (h : applySpeed hz s = .ok t) : SameControl s t := by
  unfold applySpeed setSpeedChecked at h
  split at h
  · cases h; exact SameControl.refl s
  · split at h
    · cases h
    · cases h; exact sameControl_setSpeed hz s

theorem xferChecked_ok {d : Slot} {t : Transfer} {s : State} {x : Word × State}
    (h : xferChecked d t s = .ok x) : x = xfer d t s := by
  unfold xferChecked at h
  split at h
  · cases h; rfl
  · cases h

/-- What one Transfer of a Message does, when it has a meaning (R139). -/
theorem runTransfer_ok {d : Slot} {a : Word} {asserted : Bool} {s : State} {t : Transfer} {got : Word}
    {s' : State} (h : runTransfer d a asserted s = .ok (t, got, s')) :
    ∃ selected timed, t = (readTransfer a s).1 ∧ rangeOk s.cfg a 20 = true ∧ t.ok s.cfg = true ∧
      selected = (if asserted then (readTransfer a s).2 else csAssert d (readTransfer a s).2) ∧
      applySpeed (effHz d t selected) selected = .ok timed ∧ (got, s') = xfer d t timed := by
  unfold runTransfer at h
  simp only at h
  split at h
  · rename_i hok
    split at h
    · cases h
    · rename_i timed htimed
      split at h
      · cases h
      · rename_i x hx
        cases h
        rw [Bool.and_eq_true] at hok
        exact ⟨_, timed, rfl, hok.1, hok.2, rfl, htimed, xferChecked_ok hx⟩
  · cases h

theorem sameControl_runTransfer {d : Slot} {a : Word} {asserted : Bool} {s : State} {t : Transfer} {got : Word}
    {s' : State} (h : runTransfer d a asserted s = .ok (t, got, s')) : SameControl s s' := by
  obtain ⟨selected, timed, -, -, -, hsel, htimed, hx⟩ := runTransfer_ok h
  have h1 : SameControl s selected := by
    rw [hsel]; split
    · exact sameControl_readTransfer a s
    · exact (sameControl_readTransfer a s).trans (sameControl_csAssert d _)
  have h2 : s' = (xfer d t timed).2 := congrArg Prod.snd hx
  rw [h2]
  exact h1.trans ((sameControl_applySpeed htimed).trans (sameTransfer_xfer d t timed).toSameControl)

theorem sameControl_runTransfers {d : Slot} {ptr : Word} :
    ∀ {left xi : Nat} {asserted : Bool} {actual : Word} {s : State} {r : SeqResult} {s' : State},
      runTransfers d ptr left xi asserted actual s = .ok (r, s') → SameControl s s'
  | 0, _, _, _, s, r, s', h => by
    simp only [runTransfers, Except.ok.injEq, Prod.mk.injEq] at h
    rw [← h.2]; exact SameControl.refl s
  | left + 1, xi, asserted, actual, s, r, s', h => by
    simp only [runTransfers] at h
    split at h
    · cases h
    · rename_i t got u hu
      have h1 := (sameControl_setXi xi s).trans (sameControl_runTransfer hu)
      split at h
      · cases h; exact h1.trans (sameControl_csDeassert d u)
      · split at h
        · exact h1.trans ((sameControl_csDeassert d u).trans (sameControl_runTransfers h))
        · exact h1.trans (sameControl_runTransfers h)

theorem sameControl_runMessage {d : Slot} {ptr : Word} {cnt : Nat} {h : Option Slot} {s : State}
    {r : SeqResult} {s' : State} (hr : runMessage d ptr cnt h s = .ok (r, s')) : SameControl s s' := by
  unfold runMessage at hr
  split at hr
  · cases hr; exact sameControl_releaseHeld h s
  · split at hr
    · cases hr
    · split at hr
      · exact sameControl_runTransfers hr
      · exact (sameControl_releaseHeld h s).trans (sameControl_runTransfers hr)

/-- What PROCESS_MSG does, when it has a meaning (R139). -/
theorem processMsg_ok {d : Slot} {m : Word} {h : Option Slot} {s t : State}
    (hp : processMsg d m h s = .ok t) :
    ∃ r u, slotReady d s = .ok () ∧ messageOk s.cfg m = .ok () ∧
      runMessage d (memRead4 m s).1 (memRead4 (m + 4) (memRead4 m s).2).1.toNat h
        (memRead4 (m + 4) (memRead4 m s).2).2 = .ok (r, u) ∧
      t = writeResults m r u := by
  unfold processMsg at hp
  split at hp
  · cases hp
  · cases hp
  · rename_i h1 h2
    simp only at hp
    split at hp
    · cases hp
    · rename_i r u hr
      cases hp
      exact ⟨r, u, h1, h2, hr, rfl⟩

/-- PROCESS_MSG writes `seq` and none of the other fields of `SameControl`. -/
theorem processMsg_control {d : Slot} {m : Word} {h : Option Slot} {s t : State}
    (hp : processMsg d m h s = .ok t) : SameControl { s with seq := t.seq } t := by
  obtain ⟨r, u, -, -, hr, rfl⟩ := processMsg_ok hp
  have h1 := ((sameControl_memRead4 m s).trans (sameControl_memRead4 (m + 4) _)).trans
    (sameControl_runMessage hr)
  have h2 := h1.trans ((sameControl_memWrite4 (m + 0x10) r.status u).trans
    (sameControl_memWrite4 (m + 0x14) r.actual _))
  exact { h2 with seq := rfl }

/-- A slot an operation may name is registered. -/
theorem slotReady_ok {d : Slot} {s : State} : slotReady d s = .ok () ↔ s.ready d = true := by
  unfold slotReady State.ready
  cases s.cfg.hasSlot d <;> cases (s.dev d).valid <;> simp

end Sys2Proof.Machine
end

