-- ==== Sys2Proof/Laws/Engine.lean ====
section
/-! SUPPORT. What one line write, one bit and one unit on the wire do, in closed form (spec/40_gpio_lines.md R90,
R97; spec/41_bit_engine.md R101 to R106): the latch, the events, the bits sampled, the environment's position. -/

namespace Sys2Proof.Machine

/-! ### The latch of one line -/

/-- The latch register after one line is driven to a level. -/
def lineOut (n : Nat) (v : Bool) (out : Word) : Word :=
  (out ||| (if v then bit n else 0)) &&& ~~~(if v then 0 else bit n)

theorem lineTo_eq (n : Nat) (v : Bool) (s : State) :
    lineTo n v s = { s with gpioOut := lineOut n v s.gpioOut, trace := s.trace ++ [levelEvent n v] } := by
  unfold lineTo; rw [lineSet_eq]; rfl

theorem getLsbD_bit (n i : Nat) (hi : i < 32) : (bit n).getLsbD i = decide (n = i) := by
  unfold bit; rw [BitVec.getLsbD_twoPow, ← Bool.decide_and, decide_eq_decide]; omega

/-- A line write sets its line and no other. -/
theorem getLsbD_lineOut (n i : Nat) (v : Bool) (out : Word) (hi : i < 32) :
    (lineOut n v out).getLsbD i = if i = n then v else out.getLsbD i := by
  unfold lineOut
  simp only [BitVec.getLsbD_and, BitVec.getLsbD_or, BitVec.getLsbD_not, hi, decide_true, Bool.true_and]
  by_cases h : i = n
  · subst h
    cases v <;> simp [getLsbD_bit i i hi, -BitVec.getLsbD_eq_getElem]
  · cases v <;> simp [getLsbD_bit n i hi, h, Ne.symm h, -BitVec.getLsbD_eq_getElem]

/-- Two writes of one line: the second stands. -/
theorem lineOut_lineOut (n : Nat) (u v : Bool) (out : Word) : lineOut n v (lineOut n u out) = lineOut n v out := by
  refine BitVec.eq_of_getLsbD_eq fun i hi => ?_
  simp only [getLsbD_lineOut _ _ _ _ hi]
  split <;> rfl

/-! ### One bit -/

/-- SR_RX with the level of MISO in the answer `m` shifted in. -/
def shiftIn (c : Config) (rx m : Word) : Word := (rx <<< 1) ||| (BitVec.ofBool (m.getLsbD c.miso)).setWidth 32

theorem bitPhase0_eq (w cpol b : Bool) (s : State) :
    bitPhase0 w cpol b s =
      { s with
        gpioOut := lineOut s.cfg.sck cpol (lineOut s.cfg.mosi b s.gpioOut)
        trace := s.trace ++ bitEvents0 s.cfg s.speed.softDelayNs w cpol b s.lineAnswer
        srRx := if w then shiftIn s.cfg s.srRx s.lineAnswer else s.srRx
        lineScript := if w then s.lineScript.tail else s.lineScript
        draws := if w then s.draws + 1 else s.draws
        bitCnt := s.bitCnt - 1
        pos := { s.pos with ki := s.pos.ki + 1 } } := by
  cases w <;>
    simp [bitPhase0, sckTo, mosiTo, halfBit, sampleIf, sampleMiso, countBit, lineTo_eq, waitNs_eq, lineGet_eq, delayEvents,
      bitEvents0, lineOut_lineOut, shiftIn, State.lineAnswer]

theorem bitPhase1_eq (w cpol b : Bool) (s : State) :
    bitPhase1 w cpol b s =
      { s with
        gpioOut := lineOut s.cfg.sck cpol (lineOut s.cfg.mosi b (lineOut s.cfg.sck (!cpol) s.gpioOut))
        trace := s.trace ++ bitEvents1 s.cfg s.speed.softDelayNs w cpol b s.lineAnswer
        srRx := if w then shiftIn s.cfg s.srRx s.lineAnswer else s.srRx
        lineScript := if w then s.lineScript.tail else s.lineScript
        draws := if w then s.draws + 1 else s.draws
        bitCnt := s.bitCnt - 1
        pos := { s.pos with ki := s.pos.ki + 1 } } := by
  cases w <;>
    simp [bitPhase1, sckTo, mosiTo, halfBit, sampleIf, sampleMiso, countBit, lineTo_eq, waitNs_eq, lineGet_eq, delayEvents,
      bitEvents1, shiftIn, State.lineAnswer]

theorem bitHw_eq (cpol b : Bool) (s : State) :
    bitHw cpol b s =
      { s with
        gpioOut := lineOut s.cfg.sck cpol (lineOut s.cfg.mosi b s.gpioOut)
        trace := s.trace ++ bitEventsHw s.cfg cpol b s.lineAnswer
        srRx := shiftIn s.cfg s.srRx s.lineAnswer
        lineScript := s.lineScript.tail
        draws := s.draws + 1
        bitCnt := s.bitCnt - 1
        pos := { s.pos with ki := s.pos.ki + 1 } } := by
  simp [bitHw, sckTo, mosiTo, sampleMiso, countBit, lineTo_eq, lineGet_eq, bitEventsHw, lineOut_lineOut, shiftIn,
    State.lineAnswer]

/-! ### A loop of bits -/

/-- The environment's answers depend on its script, the draw counter and the platform only. -/
theorem samples_congr : ∀ (n : Nat) {s t : State}, t.lineScript = s.lineScript → t.draws = s.draws →
    t.cfg = s.cfg → t.samples n = s.samples n
  | 0, _, _, _, _, _ => rfl
  | n + 1, s, t, h1, h2, h3 => by
    have ha : t.lineAnswer = s.lineAnswer := by unfold State.lineAnswer; rw [h1, h2, h3]
    simp only [State.samples, ha]
    rw [samples_congr n (s := consumeAnswer s) (t := consumeAnswer t)] <;> simp [consumeAnswer, h1, h2, h3]

theorem length_samples : ∀ (n : Nat) (s : State), (s.samples n).length = n
  | 0, _ => rfl
  | n + 1, s => by simp [State.samples, length_samples n]

/-- What one bit does to everything but the latch: `ev` its events, `w` whether it samples MISO. -/
structure BitStep (one : Bool → State → State) (w : Bool) (ev : Bool → Word → List Event) (c : Config)
    (ns : Word) : Prop where
  trace : ∀ b s, s.cfg = c → s.speed.softDelayNs = ns → (one b s).trace = s.trace ++ ev b s.lineAnswer
  cfg : ∀ b s, (one b s).cfg = s.cfg
  speed : ∀ b s, (one b s).speed = s.speed
  srTx : ∀ b s, (one b s).srTx = s.srTx
  srRx : ∀ b s, s.cfg = c → (one b s).srRx = if w then shiftIn c s.srRx s.lineAnswer else s.srRx
  script : ∀ b s, (one b s).lineScript = if w then s.lineScript.tail else s.lineScript
  draws : ∀ b s, (one b s).draws = if w then s.draws + 1 else s.draws
  bitCnt : ∀ b s, (one b s).bitCnt = s.bitCnt - 1
  ki : ∀ b s, (one b s).pos.ki = s.pos.ki + 1
  blind : w = false → ∀ b m m', ev b m = ev b m'

/-- What a loop of `k` bits does. -/
structure UnitStep (w : Bool) (ev : Bool → Word → List Event) (k : Nat) (s t : State) : Prop where
  trace : t.trace = s.trace ++ unitEvents ev s.srTx k (s.samples k)
  srRx : t.srRx = if w then (s.samples k).foldl (shiftIn s.cfg) s.srRx else s.srRx
  script : t.lineScript = if w then s.lineScript.drop k else s.lineScript
  draws : t.draws = if w then s.draws + k else s.draws
  bitCnt : t.bitCnt = s.bitCnt - BitVec.ofNat 6 k
  srTx : t.srTx = s.srTx

theorem unitEvents_blind {ev : Bool → Word → List Event} (h : ∀ b m m', ev b m = ev b m') (tx : Word) :
    ∀ (k : Nat) (ms ms' : List Word), unitEvents ev tx k ms = unitEvents ev tx k ms'
  | 0, _, _ => rfl
  | k + 1, ms, ms' => by
    simp only [unitEvents]
    rw [h _ (ms.headD 0) (ms'.headD 0), unitEvents_blind h tx k ms.tail ms'.tail]

theorem shiftBits_unit {one : Bool → State → State} {w : Bool} {ev : Bool → Word → List Event} {c : Config}
    {ns : Word} (h : BitStep one w ev c ns) : ∀ (k : Nat) (s : State), s.cfg = c → s.speed.softDelayNs = ns →
      UnitStep w ev k s (shiftBits one k s)
  | 0, s, _, _ => by constructor <;> simp [shiftBits, unitEvents, State.samples]
  | k + 1, s, hc, hs => by
    have ih := shiftBits_unit h k (one (s.srTx.getLsbD k) s) ((h.cfg _ _).trans hc)
      ((congrArg Speed.softDelayNs (h.speed _ _)).trans hs)
    have hans : w = true → (one (s.srTx.getLsbD k) s).samples k = (consumeAnswer s).samples k := by
      intro hw
      apply samples_congr
      · rw [h.script, hw]; rfl
      · rw [h.draws, hw]; rfl
      · exact h.cfg _ _
    simp only [shiftBits]
    constructor
    · rw [ih.trace, h.trace _ _ hc hs, h.srTx]
      simp only [unitEvents, State.samples, List.headD_cons, List.tail_cons, List.append_assoc]
      cases hw : w
      · rw [unitEvents_blind (h.blind hw) s.srTx k _ ((consumeAnswer s).samples k)]
      · rw [hans hw]
    · rw [ih.srRx, h.srRx _ _ hc, h.cfg]
      cases hw : w
      · simp
      · simp [State.samples, hans hw, hc]
    · rw [ih.script, h.script]
      cases w
      · rfl
      · simp [List.drop_tail]
    · rw [ih.draws, h.draws]
      cases w <;> simp; omega
    · rw [ih.bitCnt, h.bitCnt]; bv_omega
    · rw [ih.srTx, h.srTx]

theorem bitStep_phase0 (w cpol : Bool) (c : Config) (ns : Word) :
    BitStep (bitPhase0 w cpol) w (bitEvents0 c ns w cpol) c ns := by
  constructor <;> intros <;> (try rw [bitPhase0_eq]) <;> subst_vars <;> rfl

theorem bitStep_phase1 (w cpol : Bool) (c : Config) (ns : Word) :
    BitStep (bitPhase1 w cpol) w (bitEvents1 c ns w cpol) c ns := by
  constructor <;> intros <;> (try rw [bitPhase1_eq]) <;> subst_vars <;> rfl

theorem bitStep_hw (cpol : Bool) (c : Config) (ns : Word) :
    BitStep (bitHw cpol) true (bitEventsHw c cpol) c ns := by
  constructor <;> intros <;> (try rw [bitHw_eq]) <;> subst_vars <;> first | rfl | simp_all

/-! ### The received bits -/

/-- Shifting the answers in leaves the last one in bit 0, the first one highest, and the old bits above. -/
theorem getLsbD_foldl_shiftIn (c : Config) : ∀ (ms : List Word) (rx : Word) (i : Nat), i < 32 →
    (ms.foldl (shiftIn c) rx).getLsbD i =
      if i < ms.length then (ms.getD (ms.length - 1 - i) 0).getLsbD c.miso else rx.getLsbD (i - ms.length)
  | [], rx, i, hi => by simp
  | m :: ms, rx, i, hi => by
    rw [List.foldl_cons, getLsbD_foldl_shiftIn c ms _ i hi]
    by_cases h1 : i < ms.length
    · rw [if_pos h1, if_pos (by simp; omega)]
      congr 1
      rw [show (m :: ms).length - 1 - i = (ms.length - 1 - i) + 1 by simp; omega]
      rfl
    · rw [if_neg h1]
      by_cases h2 : i = ms.length
      · subst h2
        rw [if_pos (by simp)]
        simp [shiftIn]
      · rw [if_neg (by simp; omega)]
        have h3 : i - ms.length ≠ 0 := by omega
        have h4 : i - (m :: ms).length = i - ms.length - 1 := by simp; omega
        rw [h4]
        simp only [shiftIn, BitVec.getLsbD_or, BitVec.getLsbD_shiftLeft, BitVec.getLsbD_setWidth]
        have h5 : i - ms.length < 32 := by omega
        have h6 : ¬ i - ms.length < 1 := by omega
        have h7 : (BitVec.ofBool (m.getLsbD c.miso)).getLsbD (i - ms.length) = false :=
          BitVec.getLsbD_of_ge _ _ (by omega)
        simp [h5, h6, h7]

end Sys2Proof.Machine
end

