-- ==== Sys2Proof/Laws/Platform.lean ====
section
/-! SUPPORT. What a legal platform (spec/00_scope.md R4, `Config.wf`) gives: the signal lines differ and are
below 32, every slot has a line of its own, and no hook names a signal line. -/

namespace Sys2Proof

open Sys2Proof.Machine (getLsbD_bit)

variable {c : Config}

theorem Config.wf_nlines (h : c.wf = true) : c.nlines ≤ 32 := by
  unfold Config.wf at h
  simp only [Bool.and_eq_true, decide_eq_true_eq] at h
  exact h.1.1.1.1.1.1.1.1.2

theorem Config.wf_ndev (h : c.wf = true) : c.ndev ≤ 16 := by
  unfold Config.wf at h
  simp only [Bool.and_eq_true, decide_eq_true_eq] at h
  exact h.1.1.1.1.1.1.1.2.2

theorem Config.wf_bounded (h : c.wf = true) :
    ∀ n ∈ [c.sck, c.mosi, c.miso] ++ c.slots.map SlotConfig.cs, n < c.nlines := by
  unfold Config.wf at h
  simp only [Bool.and_eq_true, decide_eq_true_eq, List.all_eq_true] at h
  exact h.1.1.1.1.1.1.2

theorem Config.wf_nodup (h : c.wf = true) : ([c.sck, c.mosi, c.miso] ++ c.slots.map SlotConfig.cs).Nodup := by
  unfold Config.wf at h
  simp only [Bool.and_eq_true, decide_eq_true_eq] at h
  exact h.1.1.1.1.1.2

/-- The three bus lines are below 32 and differ. -/
theorem Config.wf_bus (h : c.wf = true) :
    c.sck < 32 ∧ c.mosi < 32 ∧ c.miso < 32 ∧ c.sck ≠ c.mosi ∧ c.sck ≠ c.miso ∧ c.mosi ≠ c.miso := by
  have hb := c.wf_bounded h
  have hn := c.wf_nodup h
  have hl := c.wf_nlines h
  have h1 := hb c.sck (by simp)
  have h2 := hb c.mosi (by simp)
  have h3 := hb c.miso (by simp)
  simp only [List.cons_append, List.nil_append, List.nodup_cons, List.mem_cons, not_or] at hn
  refine ⟨by omega, by omega, by omega, hn.1.1, hn.1.2.1, hn.2.1.1⟩

theorem Config.slot_mem {d : Slot} (hd : c.hasSlot d = true) : c.slot d ∈ c.slots := by
  unfold Config.hasSlot Config.ndev at hd
  unfold Config.slot
  have hlt : d.toNat < c.slots.length := of_decide_eq_true hd
  rw [List.getD_eq_getElem _ _ hlt]
  exact List.getElem_mem hlt

/-- The line of an existing slot is below 32 and is no bus line. -/
theorem Config.wf_cs (h : c.wf = true) {d : Slot} (hd : c.hasSlot d = true) :
    (c.slot d).cs < 32 ∧ (c.slot d).cs ≠ c.sck ∧ (c.slot d).cs ≠ c.mosi ∧ (c.slot d).cs ≠ c.miso := by
  have hm : (c.slot d).cs ∈ c.slots.map SlotConfig.cs := List.mem_map_of_mem (c.slot_mem hd)
  have hb := c.wf_bounded h (c.slot d).cs (by simp only [List.mem_append]; exact Or.inr hm)
  have hl := c.wf_nlines h
  have hn := c.wf_nodup h
  simp only [List.cons_append, List.nil_append, List.nodup_cons, List.mem_cons, not_or] at hn
  refine ⟨by omega, ?_, ?_, ?_⟩
  · intro he; exact hn.1.2.2 (he ▸ hm)
  · intro he; exact hn.2.1.2 (he ▸ hm)
  · intro he; exact hn.2.2.1 (he ▸ hm)

/-- Two existing slots with one line are one slot. -/
theorem Config.wf_cs_inj (h : c.wf = true) {d e : Slot} (hd : c.hasSlot d = true) (he : c.hasSlot e = true)
    (heq : (c.slot d).cs = (c.slot e).cs) : d = e := by
  have hn := c.wf_nodup h
  simp only [List.cons_append, List.nil_append, List.nodup_cons] at hn
  have hn' := hn.2.2.2
  unfold Config.hasSlot Config.ndev at hd he
  have h1 : d.toNat < c.slots.length := of_decide_eq_true hd
  have h2 : e.toNat < c.slots.length := of_decide_eq_true he
  unfold Config.slot at heq
  rw [List.getD_eq_getElem _ _ h1, List.getD_eq_getElem _ _ h2] at heq
  have h1' : d.toNat < (c.slots.map SlotConfig.cs).length := by simpa using h1
  have h2' : e.toNat < (c.slots.map SlotConfig.cs).length := by simpa using h2
  have := (List.Nodup.getElem_inj_iff hn' (hi := h1') (hj := h2')).1 (by simpa using heq)
  exact BitVec.eq_of_toNat_eq this

theorem getLsbD_allCs : ∀ (l : List SlotConfig) (i : Nat), i < 32 →
    ((l.foldr (fun p m => bit p.cs ||| m) 0).getLsbD i = true ↔ ∃ p ∈ l, p.cs = i)
  | [], i, _ => by simp
  | p :: l, i, hi => by
    rw [List.foldr_cons, BitVec.getLsbD_or, getLsbD_bit _ _ hi, Bool.or_eq_true, getLsbD_allCs l i hi]
    simp

/-- The hooks of a slot name no bus line and no chip-select line, and own lines only. -/
theorem Config.wf_hooks (h : c.wf = true) {p : SlotConfig} (hp : p ∈ c.slots) :
    p.auxHigh &&& p.auxLow = 0 ∧
    ∀ i < 32, (i = c.sck ∨ i = c.mosi ∨ i = c.miso ∨ (∃ q ∈ c.slots, q.cs = i) ∨ c.lineMask.getLsbD i = false) →
      p.auxHigh.getLsbD i = false ∧ p.auxLow.getLsbD i = false ∧ p.strobe.getLsbD i = false := by
  unfold Config.wf at h
  simp only [Bool.and_eq_true, decide_eq_true_eq, List.all_eq_true] at h
  obtain ⟨⟨h1, h2⟩, h3⟩ := h.1.1.1.1.2 p hp
  refine ⟨h1, fun i hi hcase => ?_⟩
  have e2 := congrArg (fun w => w.getLsbD i) h2
  have e3 := congrArg (fun w => w.getLsbD i) h3
  simp only [BitVec.getLsbD_and, BitVec.getLsbD_or, BitVec.getLsbD_not, hi, decide_true,
    Bool.true_and, getLsbD_bit _ _ hi] at e2 e3
  have hs : (((decide (c.sck = i) || decide (c.mosi = i)) || decide (c.miso = i)) || c.allCs.getLsbD i) = true ∨
      c.lineMask.getLsbD i = false := by
    rcases hcase with rfl | rfl | rfl | hq | hm
    · simp
    · simp
    · simp
    · exact Or.inl (by unfold Config.allCs; rw [(getLsbD_allCs c.slots i hi).2 hq]; simp)
    · exact Or.inr hm
  have : ((p.auxHigh.getLsbD i || p.auxLow.getLsbD i) || p.strobe.getLsbD i) = false := by
    rcases hs with hs | hs
    · rw [hs] at e2; simpa using e2
    · rw [hs] at e3; simpa using e3
  simp only [Bool.or_eq_false_iff] at this
  exact ⟨this.1.1, this.1.2, this.2⟩

end Sys2Proof
end

