-- ==== Sys2Proof/Laws/Select.lean ====
section
/-! SUPPORT. What selecting, deselecting and applying a speed do, in closed form (spec/43_cs_sequencer.md R136,
R137, R139; spec/42_speed_calculator.md R124), and when the condition on a clock phase holds. -/

namespace Sys2Proof.Machine

/-- The latch register after one GPIO_SET. -/
def maskOut (high low out : Word) : Word := (out ||| high) &&& ~~~low

theorem lineSet_maskOut (high low : Word) (s : State) :
    lineSet high low s =
      { s with gpioOut := maskOut high low s.gpioOut, trace := s.trace ++ [.lineSet high low] } :=
  lineSet_eq high low s

/-- A GPIO_SET leaves the lines alone that are in neither mask. -/
theorem getLsbD_maskOut (high low out : Word) (i : Nat) (hi : i < 32) (hh : high.getLsbD i = false)
    (hl : low.getLsbD i = false) : (maskOut high low out).getLsbD i = out.getLsbD i := by
  unfold maskOut
  simp only [BitVec.getLsbD_and, BitVec.getLsbD_or, BitVec.getLsbD_not, hi, hh, hl]
  simp

/-- The latch register after the setup hook of `p`. -/
def setupOut (p : SlotConfig) (out : Word) : Word :=
  if p.auxHigh ||| p.auxLow = 0 then out else maskOut p.auxHigh p.auxLow out

/-- The latch register after the teardown hook of `p`. -/
def teardownOut (p : SlotConfig) (out : Word) : Word :=
  let undone := if p.auxHigh ||| p.auxLow = 0 then out else maskOut p.auxLow p.auxHigh out
  if p.strobe = 0 then undone else maskOut 0 p.strobe (maskOut p.strobe 0 undone)

theorem csAssert_eq (d : Slot) (s : State) :
    csAssert d s =
      { s with
        latch := { cpol := (s.dev d).cpol, cpha := (s.dev d).cpha }
        gpioOut := setupOut (s.cfg.slot d)
          (lineOut (s.cfg.slot d).cs (s.dev d).csHigh (lineOut s.cfg.sck (s.dev d).cpol s.gpioOut))
        trace := s.trace ++ assertEvents s d } := by
  unfold csAssert setupHook csTo sckTo
  simp only [lineTo_eq, lineSet_maskOut, setupOut, assertEvents]
  split <;> simp

theorem csDeassert_eq (d : Slot) (s : State) :
    csDeassert d s =
      { s with
        gpioOut := teardownOut (s.cfg.slot d) (lineOut (s.cfg.slot d).cs (!(s.dev d).csHigh) s.gpioOut)
        trace := s.trace ++ deassertEvents s d } := by
  unfold csDeassert teardownHook csTo
  simp only [lineTo_eq, lineSet_maskOut, teardownOut, deassertEvents]
  split <;> split <;> simp

/-- Releasing what is held appends its events and changes nothing but the latch register besides. -/
theorem releaseHeld_eq (h : Option Slot) (s : State) :
    ∃ out, releaseHeld h s = { s with gpioOut := out, trace := s.trace ++ releaseEvents s h } := by
  cases h with
  | none => exact ⟨s.gpioOut, by simp [releaseHeld, releaseEvents]⟩
  | some e => exact ⟨_, csDeassert_eq e s⟩

/-- The hooks of an existing slot leave the signal lines alone. -/
theorem getLsbD_hooks {c : Config} (h : c.wf = true) {d : Slot} (hd : c.hasSlot d = true) (out : Word) (i : Nat)
    (hi : i < 32) (hcase : i = c.sck ∨ i = c.mosi ∨ i = c.miso ∨ (∃ q ∈ c.slots, q.cs = i)) :
    (setupOut (c.slot d) out).getLsbD i = out.getLsbD i ∧
      (teardownOut (c.slot d) out).getLsbD i = out.getLsbD i := by
  have hz : (0 : Word).getLsbD i = false := BitVec.getLsbD_zero
  obtain ⟨ha, hb, hs⟩ := (Config.wf_hooks h (Config.slot_mem hd)).2 i hi
    (by rcases hcase with h1 | h1 | h1 | h1 <;> simp only [h1, true_or, or_true])
  constructor
  · unfold setupOut; split
    · rfl
    · exact getLsbD_maskOut _ _ _ i hi ha hb
  · unfold teardownOut
    simp only
    split
    · split
      · rfl
      · exact getLsbD_maskOut _ _ _ i hi hb ha
    · rw [getLsbD_maskOut _ _ _ i hi hz hs, getLsbD_maskOut _ _ _ i hi hs hz]
      split
      · rfl
      · exact getLsbD_maskOut _ _ _ i hi hb ha

/-- A Transfer's effective speed, when it is not 0, is the one in force after it is applied, and an unchanged
request writes nothing (R124). -/
theorem applySpeed_eq (hz : Word) (s : State) (h : hz ≠ 0) :
    applySpeed hz s = .ok (if s.speed.curHz = some hz then s else setSpeed hz s) := by
  unfold applySpeed setSpeedChecked
  rw [if_neg h]
  split <;> rfl

/-- A shift has a meaning unless it needs a phase the engine does not support (R103). -/
theorem phaseOk_ok {cpha : Bool} {s : State} : phaseOk cpha s = .ok () ↔ (cpha = true → s.cfg.cpha1Supported = true) := by
  unfold phaseOk
  cases cpha <;> cases s.cfg.cpha1Supported <;> simp

/-- XFER has a meaning exactly where its phase has one. -/
theorem xferChecked_eq {d : Slot} {t : Transfer} {s : State} (h : s.latch.cpha = true → s.cfg.cpha1Supported = true) :
    xferChecked d t s = .ok (xfer d t s) := by
  unfold xferChecked
  rw [phaseOk_ok.2 h]

/-- The fast-path test is R107's list of conditions. -/
theorem fastOk_iff (d : Slot) (t : Transfer) (s : State) : fastOk d t s = true ↔ wordPath s d t := by
  unfold fastOk
  simp only [Bool.and_eq_true, decide_eq_true_eq, Bool.not_eq_true', Option.isSome_iff_ne_none]
  tauto

end Sys2Proof.Machine
end

