-- ==== Sys2Proof/Laws/Dispatcher.lean ====
section
/-! SUPPORT. What the parts of a worker turn, of SUBMIT_ATOMIC and of a reset do, one lemma each
(spec/44_queue_dispatcher.md R160 to R165, spec/70_reset_and_hazards.md R212). -/

namespace Sys2Proof.Machine

/-! ### COMPLETE -/

/-- A Message processed with no byte raced has no marks to drop. -/
theorem dropMarks_of_nil (m : Word) (s : State) (h : s.raced = []) : dropMarks m s = s := by
  cases s; simp_all [dropMarks]

/-- What COMPLETE does, when it has a meaning (R162). -/
theorem completeMsg_ok {m : Word} {s t : State} (h : completeMsg m s = .ok t) :
    ∃ r u, messageOk s.cfg m = .ok () ∧ hasRoom s.cfg s.comp.length = true ∧
      u = (memRead4 (m + 12) (memRead4 (m + 8) s).2).2 ∧
      r = { msg := m, callback := (memRead4 (m + 8) s).1, context := (memRead4 (m + 12) (memRead4 (m + 8) s).2).1,
            status := s.seq.status, actualLength := s.seq.actual } ∧
      t = emit (.complete r) (dropMarks m { u with comp := s.comp ++ [r] }) := by
  unfold completeMsg at h
  split at h
  · cases h
  · rename_i hm
    split at h
    · rename_i hr
      cases h
      exact ⟨_, _, hm, hr, rfl, rfl, rfl⟩
    · cases h

/-- There is room in a FIFO exactly when it is unbounded or not full (R168, U5). -/
theorem hasRoom_iff (c : Config) (n : Nat) : hasRoom c n = true ↔ ∀ depth, c.queueDepth = some depth → n < depth := by
  unfold hasRoom
  cases c.queueDepth <;> simp

/-! ### The worker's turn (R160) -/

/-- The write-back changes nothing but what it says. -/
theorem writeBack_eq (s : State) :
    (∃ h, s.worker = .owes h ∧ writeBack s = { s with heldCs := h, inflight := none, worker := .atStart }) ∨
      ((∀ h, s.worker ≠ .owes h) ∧ writeBack s = s) := by
  unfold writeBack
  cases hw : s.worker with
  | owes h => exact Or.inl ⟨h, rfl, rfl⟩
  | atStart => exact Or.inr ⟨fun _ h => (by cases h), rfl⟩
  | serving => exact Or.inr ⟨fun _ h => (by cases h), rfl⟩

/-- The locked region: the sequencer is not free and it waits, the queue is empty and it sleeps, or it takes an
entry. -/
theorem lockRegion_cases (s : State) :
    ((writeBack s).inflight.isSome = true ∧ lockRegion s = writeBack s) ∨
    ((writeBack s).inflight = none ∧ takeNext (writeBack s).queue (writeBack s).heldCs = none ∧
      lockRegion s = { writeBack s with busy := false }) ∨
    (∃ e rest, (writeBack s).inflight = none ∧
      takeNext (writeBack s).queue (writeBack s).heldCs = some (e, rest) ∧
      lockRegion s = { writeBack s with queue := rest, inflight := some e, worker := .serving }) := by
  unfold lockRegion
  simp only
  split
  · rename_i h; exact Or.inl ⟨by rw [h]; rfl, rfl⟩
  · rename_i hi
    split
    · rename_i ht; exact Or.inr (Or.inl ⟨hi, ht, rfl⟩)
    · rename_i e rest ht; exact Or.inr (Or.inr ⟨e, rest, hi, ht, rfl⟩)

/-- The unlocked part: PROCESS_MSG under `held_cs`, then COMPLETE, and `h'` is kept (R160). -/
theorem serve_ok {e : Entry} {s t : State} (h : serve e s = .ok t) :
    ∃ u v, processMsg e.dev e.msg s.heldCs s = .ok u ∧ completeMsg e.msg u = .ok v ∧
      t = { v with worker := .owes u.seq.held } := by
  unfold serve at h
  split at h
  · cases h
  · rename_i u hu
    split at h
    · cases h
    · rename_i v hv
      cases h
      exact ⟨u, v, hu, hv, rfl⟩

/-! ### SUBMIT_ATOMIC (R164) -/

/-- The test of QueueAtomicHazard as R165 has it. -/
theorem atomicHazard_iff (d : Slot) (s : State) :
    atomicHazard d s = true ↔ s.busy = true ∨ ∃ e, s.heldCs = some e ∧ e ≠ d := by
  unfold atomicHazard
  cases s.heldCs <;> simp

/-- The admission of a legal command puts the Message into the sequencer and keeps the hazard. -/
theorem admission_ok {d : Slot} {m : Word} {s t : State} :
    admission d m s = .ok t ↔
      s.ready d = true ∧ descriptorAddress m = true ∧ s.inflight = none ∧ t = enterAtomic d m s := by
  unfold admission submitOperands
  cases hr : slotReady d s with
  | error r =>
    have : s.ready d ≠ true := fun h => by rw [slotReady_ok.2 h] at hr; cases hr
    simp [this]
  | ok u =>
    have : s.ready d = true := slotReady_ok.1 hr
    cases hd : descriptorAddress m <;> cases hi : s.inflight <;> simp [this, eq_comm]

/-- The processing part: the forced release in the hazard case, PROCESS_MSG from `Idle` then, else under `held_cs`
(R164, R165). -/
theorem processAtomic_ok {hazard : Bool} {e : Entry} {s t : State} (h : processAtomic hazard e s = .ok t) :
    ∃ u, processMsg e.dev e.msg (if hazard then none else s.heldCs)
        (if hazard then releaseHeld s.heldCs s else s) = .ok u ∧ t = { u with caller := .processed u.seq } := by
  unfold processAtomic at h
  split at h
  · cases h
  · rename_i u hu
    cases h
    exact ⟨u, hu, rfl⟩

/-- The answer of the command whose write-back came last takes its own word away again. -/
theorem writeAnswer_append (w : Word) (answers : List Word) (s : State) (h : s.answers = answers ++ [w]) :
    writeAnswer answers.length s = { s with result := w, answers := answers } := by
  unfold writeAnswer setResult
  simp [h, List.eraseIdx_append_of_length_le]

/-! ### Reset inside a move (R212) -/

/-- A replayed event keeps the canonical form of memory. -/
theorem replayEvent_wf (m : Memory) (e : Event) (h : m.wf = true) : (replayEvent m e).wf = true := by
  unfold replayEvent
  split
  · rename_i a n v
    split
    · exact write_wf _ _ _ (a + 3).isLt (write_wf _ _ _ (a + 2).isLt (write_wf _ _ _ (a + 1).isLt
        (write_wf _ _ _ a.isLt h)))
    · exact write_wf _ _ _ a.isLt h
  · exact h

theorem foldl_replayEvent_wf (l : List Event) (m : Memory) (h : m.wf = true) :
    (l.foldl replayEvent m).wf = true := by
  induction l generalizing m with
  | nil => exact h
  | cons e l ih => exact ih _ (replayEvent_wf m e h)

/-- A reset after the first `n` events of a move is a reset of the state in which exactly those have happened. -/
theorem resetWithin_eq (n : Nat) (s t : State) :
    ∃ done, done = (t.trace.drop s.trace.length).take n ∧
      resetWithin n s t = resetNow { s with
        mem := done.foldl replayEvent s.mem
        trace := s.trace ++ done
        lineScript := s.lineScript.drop (done.countP isLineGet)
        draws := s.draws + done.countP isDraw } :=
  ⟨_, rfl, rfl⟩

end Sys2Proof.Machine
end

