-- ==== Sys2Proof/Laws/Encoding.lean ====
section
/-! SUPPORT. The fields of a header built from its fields, and what the header keeps of each. -/

namespace Sys2Proof

@[simp] theorem opField_mkHeader (op : BitVec 8) (dev : Slot) (imm : BitVec 20) :
    opField (mkHeader op dev imm) = op := by
  unfold opField mkHeader
  ext i hi
  simp only [BitVec.getElem_extractLsb', BitVec.getLsbD_append]
  have h1 : ¬ 24 + i < 20 := by omega
  have h2 : ¬ 24 + i - 20 < 4 := by omega
  have h3 : 24 + i - 20 - 4 = i := by omega
  simp [h1, h2, h3, hi]

@[simp] theorem devField_mkHeader (op : BitVec 8) (dev : Slot) (imm : BitVec 20) :
    devField (mkHeader op dev imm) = dev := by
  unfold devField mkHeader
  ext i hi
  simp only [BitVec.getElem_extractLsb', BitVec.getLsbD_append]
  have h1 : ¬ 20 + i < 20 := by omega
  have h2 : 20 + i - 20 = i := by omega
  simp [h2, hi]

@[simp] theorem immField_mkHeader (op : BitVec 8) (dev : Slot) (imm : BitVec 20) :
    immField (mkHeader op dev imm) = imm := by
  unfold immField mkHeader
  ext i hi
  simp only [BitVec.getElem_extractLsb', BitVec.getLsbD_append]
  simp [hi]

/-- A header is its three fields. -/
theorem mkHeader_fields (h : Word) : mkHeader (opField h) (devField h) (immField h) = h := by
  unfold opField devField immField mkHeader
  ext i hi
  simp only [BitVec.getElem_append, BitVec.getElem_extractLsb']
  by_cases h1 : i < 20
  · simp [h1, hi]
  · by_cases h2 : i - 20 < 4
    · simp [h1, h2, show 20 + (i - 20) = i by omega, hi]
    · simp [h1, h2, show 24 + (i - 20 - 4) = i by omega, hi]

/-- The bits of a header, field by field. -/
theorem getElem_mkHeader (op : BitVec 8) (dev : Slot) (imm : BitVec 20) (i : Nat) (hi : i < 32) :
    (mkHeader op dev imm)[i] =
      if i < 20 then imm.getLsbD i else if i < 24 then dev.getLsbD (i - 20) else op.getLsbD (i - 24) := by
  have key : ∀ j, i = j → (mkHeader op dev imm).getLsbD j = (mkHeader op dev imm)[i] := by
    rintro _ rfl; exact BitVec.getLsbD_eq_getElem hi
  rw [← key i rfl]
  unfold mkHeader
  simp only [BitVec.getLsbD_append]
  by_cases h1 : i < 20
  · simp [h1]
  · by_cases h2 : i < 24
    · simp [h1, h2, show i - 20 < 4 by omega]
    · simp [h1, h2, show ¬ i - 20 < 4 by omega, show i - 20 - 4 = i - 24 by omega]

end Sys2Proof
end

