-- ==== Sys2Proof/Laws/PerInstr.lean ====
section
/-! SUPPORT. A statement about every operation as syntax, one lemma per constructor: its encoded header fits
its row of spec/opcode_table.json (spec/30_encoding.md R70 to R78). -/

namespace Sys2Proof.Laws

/-- The header of the encoded operation has the row's fixed bits. -/
def TableFit.Statement (i : Instr) : Prop := (encode i).header &&& (tableRow i).2 = (tableRow i).1

/-- Masking a header masks its three fields. -/
theorem mkHeader_and (op : BitVec 8) (dev : Slot) (imm : BitVec 20) (m : Word) :
    mkHeader op dev imm &&& m = mkHeader (op &&& opField m) (dev &&& devField m) (imm &&& immField m) := by
  conv_lhs => rw [← mkHeader_fields m]
  exact BitVec.and_append.trans (congrArg (· ++ (imm &&& immField m)) BitVec.and_append)

/-- A row whose only free header field is `dev`. -/
theorem mkHeader_and_dev (op : BitVec 8) (dev : Slot) :
    mkHeader op dev 0 &&& 0xFF0FFFFF = mkHeader op 0 0 := by
  have h1 : opField 0xFF0FFFFF = BitVec.allOnes 8 := by decide
  have h2 : devField 0xFF0FFFFF = 0 := by decide
  rw [mkHeader_and, h1, h2, BitVec.and_allOnes]
  simp

theorem TableFit.regdev (dev : Slot) (bpw mode : Byte) (hz : Word) :
    TableFit.Statement (.regdev dev bpw mode hz) := by
  simp only [TableFit.Statement, encode, tableRow, mkHeader_and]
  have h1 : dev &&& devField 0xFF0F0000 = 0 := by
    rw [show devField 0xFF0F0000 = 0 from by decide]; simp
  have h2 : (0#4 ++ bpw ++ mode) &&& immField 0xFF0F0000 = 0 := by
    ext i hi
    simp only [immField, BitVec.getElem_and, BitVec.getElem_append, BitVec.getElem_extractLsb']
    interval_cases i <;> simp
  rw [h1, h2]; decide

theorem TableFit.submit (dev : Slot) (msg : Word) :
    TableFit.Statement (.submit dev msg) :=
  (mkHeader_and_dev _ dev).trans rfl

theorem TableFit.submitAtomic (dev : Slot) (msg : Word) :
    TableFit.Statement (.submitAtomic dev msg) :=
  (mkHeader_and_dev _ dev).trans rfl

theorem TableFit.gpioSet (high low : Word) :
    TableFit.Statement (.gpioSet high low) := by
  show mkHeader 0x80 0 0 &&& 0xFFFFFFFF = 0x80000000
  decide

theorem TableFit.gpioGet :
    TableFit.Statement .gpioGet := by
  show mkHeader 0x81 0 0 &&& 0xFFFFFFFF = 0x81000000
  decide

theorem TableFit.gpioDir (direction : BitVec 2) (mask : Word) :
    TableFit.Statement (.gpioDir direction mask) := by
  simp only [TableFit.Statement, encode, tableRow, mkHeader_and]
  have h2 : (0#18 ++ direction) &&& immField 0xFFFFFFFC = 0 := by
    ext i hi
    simp only [immField, BitVec.getElem_and, BitVec.getElem_append, BitVec.getElem_extractLsb']
    interval_cases i <;> simp
  rw [h2]; decide

theorem TableFit.delay (ns : Word) :
    TableFit.Statement (.delay ns) := by
  show mkHeader 0x88 0 0 &&& 0xFFFFFFFF = 0x88000000
  decide

theorem TableFit.shiftByte (cpha cpol wantRx : Bool) (tx : Byte) :
    TableFit.Statement (.shiftByte cpha cpol wantRx tx) := by
  simp only [TableFit.Statement, encode, tableRow, mkHeader_and]
  have h2 : (0#9 ++ BitVec.ofBool cpha ++ BitVec.ofBool cpol ++ BitVec.ofBool wantRx ++ tx) &&&
      immField 0xFFFFF800 = 0 := by
    ext i hi
    simp only [immField, BitVec.getElem_and, BitVec.getElem_append, BitVec.getElem_extractLsb']
    interval_cases i <;> simp
  rw [h2]; decide

theorem TableFit.shiftWord (cs : Slot) (cpol : Bool) (count : BitVec 6) (tx : Word) :
    TableFit.Statement (.shiftWord cs cpol count tx) := by
  simp only [TableFit.Statement, encode, tableRow, mkHeader_and]
  have h1 : cs &&& devField 0xFF0FFEC0 = 0 := by
    rw [show devField 0xFF0FFEC0 = 0 from by decide]; simp
  have h2 : (0#11 ++ BitVec.ofBool cpol ++ 0#2 ++ count) &&& immField 0xFF0FFEC0 = 0 := by
    ext i hi
    simp only [immField, BitVec.getElem_and, BitVec.getElem_append, BitVec.getElem_extractLsb']
    interval_cases i <;> simp
  rw [h1, h2]; decide

theorem TableFit.xfer (dev : Slot) (desc : Word) :
    TableFit.Statement (.xfer dev desc) :=
  (mkHeader_and_dev _ dev).trans rfl

theorem TableFit.setSpeed (hz : Word) :
    TableFit.Statement (.setSpeed hz) := by
  show mkHeader 0xA0 0 0 &&& 0xFFFFFFFF = 0xA0000000
  decide

theorem TableFit.csAssert (dev : Slot) :
    TableFit.Statement (.csAssert dev) :=
  (mkHeader_and_dev _ dev).trans rfl

theorem TableFit.csDeassert (dev : Slot) :
    TableFit.Statement (.csDeassert dev) :=
  (mkHeader_and_dev _ dev).trans rfl

theorem TableFit.processMsg (dev : Slot) (msg : Word) :
    TableFit.Statement (.processMsg dev msg) :=
  (mkHeader_and_dev _ dev).trans rfl

theorem TableFit.workerStep :
    TableFit.Statement .workerStep := by
  show mkHeader 0xC0 0 0 &&& 0xFFFFFFFF = 0xC0000000
  decide

theorem TableFit.complete (dev : Slot) (msg : Word) :
    TableFit.Statement (.complete dev msg) :=
  (mkHeader_and_dev _ dev).trans rfl

end Sys2Proof.Laws
end

