-- ==== Sys2Proof/Tests/Slice0.lean ====
section
/-! SUPPORT. The model's own tests. Expected results are those of spec/95_test_vectors.md or a hand calculation
from a rule; each theorem names its source. Last come the witnesses: for every statement with hypotheses a concrete
state and operands that meet them. -/

namespace Sys2Proof.Tests

open Sys2Proof Sys2Proof.Machine

/-! ### Platforms and states -/

/-- Platform T of 95_test_vectors.md section 0. -/
def platT : Config := { Config.reference with engine := .bitBang, hasDivider := false }

/-- Platform K: as T, with hooks on slot 0. -/
def platK : Config :=
  { platT with slots := [{ cs := 3, auxHigh := 0x20, auxLow := 0x40, strobe := 0x80 }, { cs := 4 }] }

/-- A registered slot. -/
def device (mode : Byte) (hz : Word) : Device := registered mode hz

/-- The platform `c` with slot 0 in mode 0 at 1 MHz, slot 1 in mode 3 at 500 kHz, their selects driven inactive. -/
def twoOn (c : Config) : State :=
  let s := State.constructed c
  { s with
    devs := (s.devs.set 0 (device 0 1000000)).set 1 (device 3 500000)
    gpioOut := s.gpioOut ||| 0x18
    gpioPP := s.gpioPP ||| 0x18
    trace := [] }

/-- The four cells of a little-endian word. -/
def wordCells (a : Nat) (w : Word) : List Host.Cell :=
  [(a, w.extractLsb' 0 8), (a + 1, w.extractLsb' 8 8), (a + 2, w.extractLsb' 16 8), (a + 3, w.extractLsb' 24 8)]

/-- The cells of consecutive words. -/
def wordsCells (a : Nat) : List Word → List Host.Cell
  | [] => []
  | w :: ws => wordCells a w ++ wordsCells (a + 4) ws

/-- `s` with a Message at 0x1000 of `cnt` Transfers at 0x1020, the first of which has the five words `x`, and the
two bytes 0x9F 0x55 at 0x2000. -/
def withMessage (cnt : Word) (x : List Word) (s : State) : State :=
  { s with mem := { cells := wordsCells 0x1000 [0x1020, cnt, 0xCB000001, 0xC0DE0001, 0, 0]
                              ++ wordsCells 0x1020 x ++ [(0x2000, 0x9F), (0x2001, 0x55)] } }

/-- The environment's answers for the bytes `bs` on line 2, most significant bit first. -/
def slave (bs : List Byte) : List Word :=
  bs.flatMap (fun b => [7, 6, 5, 4, 3, 2, 1, 0].map (fun k => if b.getLsbD k then 4 else 0))

/-- The next state, or `s` when there is none. -/
def nextOf (o : Host.Outcome State Fault Refusal) (s : State) : State :=
  match o with
  | .next t => t
  | _ => s

/-- An outcome is a next state. -/
def runs (o : Host.Outcome State Fault Refusal) : Bool :=
  match o with
  | .next _ => true
  | _ => false

theorem next_of_runs {o : Host.Outcome State Fault Refusal} (h : runs o = true) : ∃ t, o = .next t := by
  cases o with
  | next t => exact ⟨t, rfl⟩
  | fault f => cases f
  | refused r => simp [runs] at h

/-- The refusal of an outcome. -/
def refusalOf (o : Host.Outcome State Fault Refusal) : Option Refusal :=
  match o with
  | .refused r => some r
  | _ => none

/-! ### Well-formedness: an ill-formed operation for each check (R81, R43, R91, R103, R106, R120) -/

theorem test_wf_accepts :
    [Instr.regdev 1 16 8 0, .submit 1 0x1200, .gpioSet 2 4, .gpioDir 2 0x20, .shiftWord 1 true 8 0xA5,
      .setSpeed 1, .workerStep].all (Instr.wf Config.reference) = true := by decide

theorem test_wf_refuses_absent_slot :
    [Instr.regdev 2 8 0 1, .submit 2 0x1000, .submitAtomic 2 0x1000, .xfer 2 0x1020, .csAssert 2, .csDeassert 2,
      .processMsg 2 0x1000, .complete 2 0x1000, .shiftWord 2 false 8 0].any (Instr.wf Config.reference) = false := by
  decide

theorem test_wf_refuses_address_zero :
    [Instr.submit 0 0, .submitAtomic 0 0, .xfer 0 0, .processMsg 0 0, .complete 0 0].any
      (Instr.wf Config.reference) = false := by decide

theorem test_wf_refuses_address_unaligned :
    [Instr.submit 0 0x1002, .submitAtomic 0 0x1001, .xfer 0 0x1022, .processMsg 0 0x1002, .complete 0 0x1003].any
      (Instr.wf Config.reference) = false := by decide

theorem test_wf_refuses_overlap : (Instr.gpioSet 2 2).wf Config.reference = false := by decide

theorem test_wf_refuses_line_out_of_range :
    (Instr.gpioSet 0x100 0).wf Config.reference = false ∧ (Instr.gpioSet 0 0x100).wf Config.reference = false ∧
      (Instr.gpioDir 0 0x100).wf Config.reference = false := by decide

theorem test_wf_refuses_direction_3 : (Instr.gpioDir 3 0x20).wf Config.reference = false := by decide

theorem test_wf_refuses_count :
    (Instr.shiftWord 0 false 0 0).wf Config.reference = false ∧
      (Instr.shiftWord 0 false 33 0).wf Config.reference = false := by decide

theorem test_wf_refuses_word_without_peripheral : (Instr.shiftWord 0 false 8 0).wf platT = false := by decide

theorem test_wf_refuses_phase :
    (Instr.shiftByte true false true 0).wf { platT with cpha1Supported := false } = false := by decide

theorem test_wf_refuses_speed_0 : (Instr.setSpeed 0).wf Config.reference = false := by decide

/-! ### Legal platforms (R4) -/

theorem test_platforms_legal :
    Config.reference.wf = true ∧ platT.wf = true ∧ platK.wf = true := by decide

theorem test_platform_refuses :
    ({ platT with nlines := 33 } : Config).wf = false ∧ ({ platT with slots := [] } : Config).wf = false ∧
    ({ platT with miso := 8 } : Config).wf = false ∧ ({ platT with mosi := 0 } : Config).wf = false ∧
    ({ platT with slots := [{ cs := 3, auxHigh := 0x20, auxLow := 0x20 }] } : Config).wf = false ∧
    ({ platT with slots := [{ cs := 3, strobe := 0x08 }] } : Config).wf = false ∧
    ({ platT with slots := [{ cs := 3, strobe := 0x100 }] } : Config).wf = false ∧
    ({ platT with hasDivider := true } : Config).wf = false ∧
    ({ platT with divMin := 2, divMax := 1 } : Config).wf = false ∧
    ({ platT with divMin := 0, divMax := 1, divTable := some [5, 6] } : Config).wf = false := by decide

/-! ### Decoding: words of 95_test_vectors.md section 2.1 -/

theorem test_decode_regdev :
    decode { header := 0x01100803, arg0 := 0x0007A120, arg1 := 0 } = .ok (.regdev 1 8 3 500000) := by decide

theorem test_decode_submit :
    decode { header := 0x02100000, arg0 := 0x00001200, arg1 := 0 } = .ok (.submit 1 0x1200) := by decide

theorem test_decode_submit_atomic :
    decode { header := 0x03100000, arg0 := 0x00001400, arg1 := 0 } = .ok (.submitAtomic 1 0x1400) := by decide

theorem test_decode_gpio_set :
    decode { header := 0x80000000, arg0 := 2, arg1 := 4 } = .ok (.gpioSet 2 4) := by decide

theorem test_decode_gpio_get : decode { header := 0x81000000, arg0 := 0, arg1 := 0 } = .ok .gpioGet := by decide

theorem test_decode_gpio_dir :
    decode { header := 0x82000002, arg0 := 0x20, arg1 := 0 } = .ok (.gpioDir 2 0x20) := by decide

theorem test_decode_delay :
    decode { header := 0x88000000, arg0 := 0x1E8, arg1 := 0 } = .ok (.delay 488) := by decide

theorem test_decode_shift_byte :
    decode { header := 0x9000019F, arg0 := 0, arg1 := 0 } = .ok (.shiftByte false false true 0x9F) ∧
    decode { header := 0x90000380, arg0 := 0, arg1 := 0 } = .ok (.shiftByte false true true 0x80) ∧
    decode { header := 0x900006A5, arg0 := 0, arg1 := 0 } = .ok (.shiftByte true true false 0xA5) := by decide

theorem test_decode_shift_word :
    decode { header := 0x91000020, arg0 := 0x9F000000, arg1 := 0 } = .ok (.shiftWord 0 false 32 0x9F000000) ∧
    decode { header := 0x91100108, arg0 := 0x000000A5, arg1 := 0 } = .ok (.shiftWord 1 true 8 0xA5) := by decide

theorem test_decode_xfer :
    decode { header := 0x92000000, arg0 := 0x1020, arg1 := 0 } = .ok (.xfer 0 0x1020) := by decide

theorem test_decode_set_speed :
    decode { header := 0xA0000000, arg0 := 0xF4240, arg1 := 0 } = .ok (.setSpeed 1000000) := by decide

theorem test_decode_cs_assert :
    decode { header := 0xB0100000, arg0 := 0, arg1 := 0 } = .ok (.csAssert 1) := by decide

theorem test_decode_cs_deassert :
    decode { header := 0xB1000000, arg0 := 0, arg1 := 0 } = .ok (.csDeassert 0) := by decide

theorem test_decode_process_msg :
    decode { header := 0xB2000000, arg0 := 0x1000, arg1 := 0 } = .ok (.processMsg 0 0x1000) := by decide

theorem test_decode_worker_step : decode { header := 0xC0000000, arg0 := 0, arg1 := 0 } = .ok .workerStep := by
  decide

theorem test_decode_complete :
    decode { header := 0xC1100000, arg0 := 0x1200, arg1 := 0 } = .ok (.complete 1 0x1200) := by decide

/-- The INVALID words of section 2.1: a host never issues a micro-operation, a reserved opcode or a set unused
bit. -/
theorem test_decode_invalid :
    [0x00000000, 0x04000000, 0x7F000000, 0x80000000, 0x9000019F, 0xC0000000, 0x02000001, 0x03080000,
      (0x01010800 : Word)].any (fun w => (decodeCmd w 0x1000).toBool) = false ∧
    decode { header := 0x83000000, arg0 := 0, arg1 := 0 } = .error .reservedOpcode ∧
    decode { header := 0x81000000, arg0 := 1, arg1 := 0 } = .error .unusedArgument := by decide

theorem test_decode_table_word :
    decodeTableWord 96 0x0000000400000002_80000000 = some (.gpioSet 2 4) ∧
    decodeTableWord 32 0xB0100000 = some (.csAssert 1) := by decide

/-! ### Effects: vectors of 95_test_vectors.md sections 2.2 to 2.9 -/

/-- Section 2.2: gpio_out 0x05, high 2, low 4 gives 0x03 with one event. -/
theorem test_gpio_set :
    let t := nextOf (exec (.gpioSet 2 4) { twoOn platT with gpioOut := 0x05 }) State.reset
    t.gpioOut = 0x03 ∧ t.trace = [.lineSet 2 4] := by decide

/-- Section 2.2: a GPIO_SET of no line appends its event. -/
theorem test_gpio_set_empty :
    let t := nextOf (exec (.gpioSet 0 0) { twoOn platT with gpioOut := 0x03 }) State.reset
    t.gpioOut = 0x03 ∧ t.trace = [.lineSet 0 0] := by decide

/-- Section 2.2 and R92: MISO high is bit 2 of the result, bits 8 to 31 are 0. -/
theorem test_gpio_get :
    let t := nextOf (exec .gpioGet { twoOn platT with lineScript := [0xFFFFFF04] }) State.reset
    t.ret = 0x04 ∧ t.trace = [.lineGet 0x04] ∧ t.lineScript = [] := by decide

/-- Section 2.2: line 3 becomes push-pull at its latched level. -/
theorem test_gpio_dir :
    let t := nextOf (exec (.gpioDir 1 0x08) { State.constructed platT with gpioOut := 0x08 }) State.reset
    t.dirOf 3 = .pushPull ∧ t.pinDrive 3 = some true ∧ t.gpioOut = 0x08 := by decide

/-- R94 and R90 *Pins*: an open-drain line at latch 1 is released. -/
theorem test_gpio_dir_open_drain :
    let t := nextOf (exec (.gpioDir 2 0x20) { twoOn platT with gpioOut := 0x20 }) State.reset
    t.dirOf 5 = .openDrain ∧ t.pinDrive 5 = none ∧ gpioDirReg t = 0x3B := by decide

/-- Section 2.2: delay 488 appends its event, delay 0 nothing. -/
theorem test_delay :
    (nextOf (exec (.delay 488) (twoOn platT)) State.reset).trace = [.delay 488] ∧
    (nextOf (exec (.delay 0) (twoOn platT)) State.reset).trace = [] := by decide

set_option maxRecDepth 16000 in
/-- V-B0: mode 0, tx 0x9F, the slave answers 0xA5. -/
theorem test_shift_byte_mode_0 :
    let t := nextOf (exec (.shiftByte false false true 0x9F)
      { twoOn platT with lineScript := slave [0xA5], speed := { curHz := some 1, softDelayNs := 100, divider := none } })
      State.reset
    t.ret = 0xA5 ∧ t.trace.length = 48 ∧
    t.trace.take 12 = [.lineSet 2 0, .delay 100, .lineSet 1 0, .delay 100, .lineGet 4, .lineSet 0 1,
      .lineSet 0 2, .delay 100, .lineSet 1 0, .delay 100, .lineGet 0, .lineSet 0 1] ∧ t.bitCnt = 0 := by decide

set_option maxRecDepth 16000 in
/-- V-B3: mode 3, tx 0xA5, no rx. -/
theorem test_shift_byte_mode_3 :
    let t := nextOf (exec (.shiftByte true true false 0xA5)
      { twoOn platT with gpioOut := 0x19, speed := { curHz := some 1, softDelayNs := 100, divider := none } })
      State.reset
    t.ret = 0 ∧ t.trace.length = 40 ∧
    t.trace.take 10 = [.lineSet 0 1, .lineSet 2 0, .delay 100, .lineSet 1 0, .delay 100,
      .lineSet 0 1, .lineSet 0 2, .delay 100, .lineSet 1 0, .delay 100] ∧ t.gpioOut = 0x1B := by decide

set_option maxRecDepth 16000 in
/-- V-W1 with the slave answering 0x3C: eight bits, polarity 1, the command word in HW_CTRL. -/
theorem test_shift_word :
    let t := nextOf (exec (.shiftWord 1 true 8 0xA5)
      { twoOn Config.reference with lineScript := slave [0x3C] }) State.reset
    t.ret = 0x3C ∧ t.hwCtrl = 0x91100108 ∧ t.trace.length = 32 ∧
    t.trace.take 4 = [.lineSet 2 0, .lineSet 0 1, .lineGet 0, .lineSet 1 0] := by decide

set_option maxRecDepth 16000 in
/-- V-X1 cut to one byte: no tx buffer, MOSI low, the received byte stored. -/
theorem test_xfer_rx_only :
    let s := withMessage 1 [0, 0x3000, 1, 0, 0] { twoOn platT with lineScript := slave [0x12] }
    let t := nextOf (exec (.xfer 0 0x1020) s) State.reset
    t.ret = 1 ∧ t.mem.read 0x3000 = some 0x12 ∧ t.trace.getLast? = some (.memWrite 0x3000 1 0x12) ∧
    levelsSince 1 s t = List.replicate 8 false := by decide

set_option maxRecDepth 16000 in
/-- V-X4 with the expected byte 0x9F: the first byte differs, the count is 0 and nothing is stored. -/
theorem test_xfer_verify_mismatch :
    let s := withMessage 1 [0, 0x2000, 2, 0, 2] { twoOn platT with lineScript := slave [0xDF, 0x55] }
    let t := nextOf (exec (.xfer 0 0x1020) s) State.reset
    t.ret = 0 ∧ t.mem = s.mem ∧ t.trace.getLast? = some (.memRead 0x2000 1 0x9F) ∧ t.lineScript = slave [0x55] ∧
    (levelsSince 0 s t).length = 16 := by decide

/-- Section 2.6, platform H: 30 MHz gives divider 3 and 4 ns; 1 MHz no divider and 488 ns. -/
theorem test_set_speed :
    (nextOf (exec (.setSpeed 30000000) State.reset) State.reset).speed =
      { curHz := some 30000000, softDelayNs := 4, divider := some 3 } ∧
    (nextOf (exec (.setSpeed 1000000) State.reset) State.reset).speed =
      { curHz := some 1000000, softDelayNs := 488, divider := none } := by decide

/-- Section 2.6: `2*hz` of the fastest request needs 33 bits. -/
theorem test_set_speed_fastest :
    softDelay platT 0xFFFFFFFF = 0 ∧ softDelay platT 1 = 499999988 ∧ softDelay platT 41666666 = 0 := by decide

/-- Section 2.7: d1 in mode 3. -/
theorem test_cs_assert :
    let t := nextOf (exec (.csAssert 1) (twoOn platT)) State.reset
    t.trace = [.lineSet 1 0, .lineSet 0 0x10] ∧ t.latch = { cpol := true, cpha := true } := by decide

/-- V-S1: the setup hook of platform K (device 0 active low here). -/
theorem test_cs_assert_hook :
    (nextOf (exec (.csAssert 0) (twoOn platK)) State.reset).trace =
      [.lineSet 0 1, .lineSet 0 0x08, .lineSet 0x20 0x40] := by decide

/-- Section 2.7: d1 in mode 3. -/
theorem test_cs_deassert :
    (nextOf (exec (.csDeassert 1) (twoOn platT)) State.reset).trace = [.lineSet 0x10 0] := by decide

/-- V-S1: undo and strobe pulse. -/
theorem test_cs_deassert_hook :
    (nextOf (exec (.csDeassert 0) (twoOn platK)) State.reset).trace =
      [.lineSet 0x08 0, .lineSet 0x40 0x20, .lineSet 0x80 0, .lineSet 0 0x80] := by decide

/-- V-S3: one Transfer of length 0, nothing held: assert, deassert, status 0, length 0. -/
theorem test_process_msg_len_0 :
    let t := nextOf (exec (.processMsg 0 0x1000) (withMessage 1 [0, 0, 0, 0, 0] (twoOn platT))) State.reset
    (t.trace.filter (fun e => (levelOf 3 e).isSome || (levelOf 0 e).isSome)) =
      [.lineSet 0 1, .lineSet 0 0x08, .lineSet 0x08 0] ∧
    t.trace.length = 12 ∧ t.seq = { held := none, status := 0, actual := 0 } ∧ t.speed.softDelayNs = 488 := by decide

/-- R141, R145: `cs_change` between two Transfers toggles the select; the counts are summed. -/
theorem test_process_msg_two :
    let s := withMessage 2 [0, 0, 0, 0, 1, 0, 0, 0, 0, 0] (twoOn platT)
    let t := nextOf (exec (.processMsg 0 0x1000) s) State.reset
    levelsSince 3 s t = [false, true, false, true] ∧ t.seq = { held := none, status := 0, actual := 0 } ∧
    wordReadsSince s t = [0x1000, 0x1004, 0x1020, 0x1024, 0x1028, 0x102C, 0x1030, 0x1034, 0x1038, 0x103C, 0x1040,
      0x1044] := by decide

set_option maxRecDepth 16000 in
/-- R139, R110: a Message's Transfer is on the wire and in memory, 0x9F sent and 0xA5 stored. -/
theorem test_process_msg_data :
    let s := withMessage 1 [0x2000, 0x3000, 1, 0, 0] { twoOn platT with lineScript := slave [0xA5] }
    let t := nextOf (exec (.processMsg 0 0x1000) s) State.reset
    t.mem.read 0x3000 = some 0xA5 ∧ t.lineScript = [] ∧
    levelsSince 1 s t = [true, false, false, true, true, true, true, true] := by decide

set_option maxRecDepth 16000 in
/-- R192 e: the verify mismatch of Transfer 0 ends the Message before Transfer 1, whose descriptor lies in the register
window, is reached; with a match it is reached and the Message is refused. -/
theorem test_abort_before_window (b : Byte) (hb : b = 0x9E ∨ b = 0x9F) :
    let s : State := { twoOn platT with
      lineScript := slave [b]
      mem := { cells := wordsCells 0x1000 [0xEFFFFFEC, 2, 0, 0, 0, 0] ++ [(0x2000, 0x9F)]
                          ++ wordsCells 0xEFFFFFEC [0, 0x2000, 1, 0, 2] } }
    if b = 0x9E then (nextOf (exec (.processMsg 0 0x1000) s) State.reset).seq = { held := none, status := 1, actual := 0 }
    else refusalOf (exec (.processMsg 0 0x1000) s) = some .malformedDescriptor := by
  rcases hb with rfl | rfl <;> decide

/-- V-S5: a Message with no Transfers for d1 releases d0. -/
theorem test_process_msg_release :
    let t := nextOf (exec (.processMsg 1 0x1000)
      (withMessage 0 [0, 0, 0, 0, 0] { twoOn platT with heldCs := some 0 })) State.reset
    t.trace = [.memRead 0x1000 4 0x1020, .memRead 0x1004 4 0, .lineSet 0x08 0, .memWrite 0x1010 4 0,
      .memWrite 0x1014 4 0] := by decide

/-- Section 2.9: REGDEV of d1 in mode 3. -/
theorem test_regdev :
    let t := nextOf (exec (.regdev 1 8 3 500000) (State.constructed platT)) State.reset
    t.result = 1 ∧ devCfgReg (t.dev 1) = 0x80000803 ∧ devHzReg (t.dev 1) = 0x7A120 ∧
    t.trace.drop 3 = [.lineSet 0x10 0, .lineDir 0x10 .pushPull] := by decide

/-- Section 2.9: rejected modes and widths, a misconfigured controller, a slot twice. -/
theorem test_regdev_errors :
    (nextOf (exec (.regdev 0 8 8 1000000) (State.constructed platT)) State.reset).result = 0x80000003 ∧
    (nextOf (exec (.regdev 0 16 0 1000000) (State.constructed platT)) State.reset).result = 0x80000003 ∧
    (nextOf (exec (.regdev 0 8 0 1) (State.constructed { platT with gpioMapped := false })) State.reset).result
      = 0x80000002 ∧
    refusalOf (exec (.regdev 0 8 0 1) (twoOn platT)) = some .slotAlreadyRegistered := by decide

/-- Section 2.8: STATUS after SUBMIT is 0x201. -/
theorem test_submit :
    let t := nextOf (exec (.submit 0 0x1000) (twoOn platT)) State.reset
    statusReg t = 0x201 ∧ t.queue = [{ msg := 0x1000, dev := 0 }] ∧ t.result = 0 ∧ t.trace = [] := by decide

/-- Section 2.9: an address that is no multiple of 4. -/
theorem test_submit_unaligned :
    refusalOf (exec (.submit 0 0x1002) (twoOn platT)) = some .badDescriptorAddress := by decide

/-- Section 2.8: STATUS after the turn that processed the Message is 0x501, after the next 0x400. -/
theorem test_worker_turn :
    let s := withMessage 0 [0, 0, 0, 0, 0] { twoOn platT with queue := [{ msg := 0x1000, dev := 0 }], busy := true }
    let t := nextOf (exec .workerStep s) State.reset
    statusReg t = 0x501 ∧ statusReg (nextOf (exec .workerStep t) State.reset) = 0x400 := by decide

/-- Section 2.8: the selection table. -/
theorem test_selection :
    select [{ msg := 0x1000, dev := 0 }, { msg := 0x1200, dev := 1 }] none = 0 ∧
    select [{ msg := 0x1200, dev := 1 }, { msg := 0x1100, dev := 0 }, { msg := 0x1140, dev := 0 }] (some 0) = 1 ∧
    select [{ msg := 0x1200, dev := 1 }] (some 0) = 0 ∧
    select [{ msg := 0x1000, dev := 0 }, { msg := 0x1200, dev := 1 }] (some 1) = 1 := by decide

/-- R162: the record holds callback, context and the values PROCESS_MSG wrote. -/
theorem test_complete :
    let t := nextOf (exec (.complete 0 0x1000)
      (withMessage 1 [0, 0, 0, 0, 0] { twoOn platT with seq := { held := none, status := 1, actual := 5 } })) State.reset
    t.comp = [{ msg := 0x1000, callback := 0xCB000001, context := 0xC0DE0001, status := 1, actualLength := 5 }] := by
  decide

/-- Section 2.8: with d0 held SUBMIT_ATOMIC on d1 releases d0 first; the queue and the FIFO stay. -/
theorem test_submit_atomic_hazard :
    let s := withMessage 0 [0, 0, 0, 0, 0] { twoOn platT with heldCs := some 0 }
    let t := nextOf (exec (.submitAtomic 1 0x1000) s) State.reset
    t.trace.take 2 = [.lineSet 0x08 0, .memRead 0x1000 4 0x1020] ∧ t.result = 0 ∧ t.heldCs = none ∧ t.comp = [] := by
  decide

set_option maxRecDepth 16000 in
/-- Section 2.9: a verify Transfer that fails under SUBMIT_ATOMIC. -/
theorem test_submit_atomic_short :
    let s := withMessage 1 [0, 0x2000, 1, 0, 2] { twoOn platT with lineScript := slave [0x00] }
    let t := nextOf (exec (.submitAtomic 0 0x1000) s) State.reset
    t.result = 0x80000001 ∧ t.mem.read 0x1010 = some 1 ∧ t.comp = [] := by decide

/-! ### Steps -/

/-- The opcode table's word is the operation the next step runs, from reset. -/
theorem test_fetch_word :
    (nextOf (step (State.reset.withFetchWord 32 0x88000000)) State.reset) = State.reset ∧
    refusalOf (step (State.reset.withFetchWord 32 0xA0000000)) = some .zeroSpeed ∧
    (nextOf (step (State.reset.withFetchWord 64 0x00000002_88000000)) State.reset).trace.getLast? = some (.delay 2) ∧
    (nextOf (step (State.reset.withFetchWord 32 0x01000800)) State.reset).result = 0x80000003 := by decide

/-- R23, R221: a REGDEV as its two register writes. -/
theorem test_command_pair :
    let s := State.constructed platT
    let s1 := nextOf (step { s with agenda := [.writeReg 4 4 1000000, .writeReg 0 4 0x01000800] }) s
    let s2 := nextOf (step s1) s
    s1.arg0 = 1000000 ∧ s2.result = 0 ∧ devHzReg (s2.dev 0) = 0xF4240 := by decide

/-- Section 2.9: IRQ_EN keeps bit 0; a read at 0x08 or 0x4C returns 0; U8 and U9 are refused. -/
theorem test_window :
    (nextOf (writeReg 0x48 4 0xFFFFFFFF State.reset) State.reset).compIe = true ∧
    regValue { State.reset with compIe := true } 0x48 = 1 ∧
    regValue State.reset 0x08 = 0 ∧ regValue State.reset 0x4C = 0 ∧
    (nextOf (readReg 0x0C 4 { State.reset with result := 0x80000001 }) State.reset).busData = 0x80000001 ∧
    (nextOf (readReg 0x04 4 { State.reset with arg0 := 0x1000 }) State.reset).busData = 0x1000 ∧
    refusalOf (writeReg 0 4 0x9000019F State.reset) = some .invalidCommand ∧
    refusalOf (readReg 0x10 2 State.reset) = some .badWindowAccess := by decide

/-- Section 2.9: construction on T, and V-S1's construction on K. -/
theorem test_construction :
    (State.constructed platT).trace = [.lineSet 0 3, .lineDir 3 .pushPull, .lineDir 4 .input] ∧
    gpioDirReg (State.constructed platT) = 3 ∧
    (State.constructed platK).trace = [.lineSet 0x40 0xA3, .lineDir 0xE3 .pushPull, .lineDir 0x04 .input] ∧
    statusReg (State.constructed { platT with gpioMapped := false }) = 0x80000000 := by decide

/-- R57: a store while Messages are in flight marks the byte with each of them, wherever it lies; with none in flight
nothing is marked. -/
theorem test_host_store_race :
    let s := withMessage 0 [0, 0, 0, 0, 0] { twoOn platT with
      queue := [{ msg := 0x1100, dev := 0 }], busy := true, inflight := some { msg := 0x1000, dev := 0 }
      worker := .serving }
    (nextOf (act (.store 0x4000 1) s) State.reset).raced = [(0x1100, 0x4000), (0x1000, 0x4000)] ∧
    (nextOf (act (.store 0x4000 1) { s with worker := .owes none }) State.reset).raced = [(0x1100, 0x4000)] ∧
    (nextOf (act (.store 0x4000 1) (twoOn platT)) State.reset).raced = [] := by decide

/-- R164, R165: the admission keeps the hazard of its test and touches neither RESULT nor the queue. -/
theorem test_begin_atomic :
    let s : State := { twoOn platT with heldCs := some 0, result := 7 }
    let t := nextOf (act (.begin 0x03100000 0x1000) s) State.reset
    t.caller = .admitted true ∧ t.inflight = some { msg := 0x1000, dev := 1 } ∧ t.heldCs = some 0 ∧ t.result = 7 ∧
    t.arg0 = 0x1000 ∧ t.trace = [] ∧
    (nextOf (act (.begin 0x03000000 0x1000) s) State.reset).caller = .admitted false := by decide

/-- R164, R52: a SUBMIT between the admission and the write-back is queued, answers 0 and waits; the hazard stays
what the admission found, and a second SUBMIT_ATOMIC is refused (R166). -/
theorem test_submit_inside_atomic :
    let s : State := { twoOn platT with
      inflight := some { msg := 0x1000, dev := 0 }, caller := .admitted false, result := 7 }
    let t := nextOf (exec (.submit 1 0x1200) s) State.reset
    t.queue = [{ msg := 0x1200, dev := 1 }] ∧ t.busy = true ∧ t.result = 0 ∧ t.caller = .admitted false ∧
    nextOf (exec .workerStep t) State.reset = t ∧ refusalOf (exec (.submitAtomic 0 0x1100) s) = some .atomicRace := by decide

/-- R164: the write-back sets held_cs and empties the sequencer; RESULT is written by a later move. -/
theorem test_atomic_write_back :
    let s : State := { twoOn platT with
      inflight := some { msg := 0x1000, dev := 0 }, result := 7
      caller := .processed { held := some 0, status := 1, actual := 3 } }
    let t := nextOf (act .caller s) State.reset
    t.heldCs = some 0 ∧ t.inflight = none ∧ t.caller = .idle ∧ t.result = 7 ∧
    (nextOf (act (.answer 0) t) State.reset).result = 0x80000001 := by decide

set_option maxRecDepth 16000 in
/-- R212, R102: a reset after 5 events of a byte cuts the trace there, with the script used as far as that; the
lines go to their reset levels and directions. -/
theorem test_reset_inside_byte :
    let s : State := { twoOn platT with lineScript := slave [0xA5] }
    let t := nextOf (act (.resetDuring (.issue 0x9000019F 0 0) 5) s) State.reset
    t.trace = [.lineSet 2 0, .lineSet 1 0, .lineGet 4, .lineSet 0 1, .lineSet 0 2, .lineSet 0 3, .lineDir 3 .pushPull,
      .lineDir 4 .input] ∧ t.lineScript = (slave [0xA5]).tail ∧ t.bitCnt = 0 ∧ (t.dev 0).valid = false := by decide

/-! ### Witnesses: states and operands that meet the hypotheses of the statements

Each names its statement. Where a hypothesis is that an operation completes, `runs` says so (`next_of_runs` gives
the next state). -/

/-- Both slots registered on T, one Transfer that sends and receives one byte, answered by 0xA5. -/
def oneByte : State :=
  withMessage 1 [0x2000, 0x3000, 1, 0, 0] { twoOn platT with lineScript := slave [0xA5] }

/-- The same with a held device. -/
def oneByteHeld : State :=
  { oneByte with heldCs := some 0, gpioOut := 0x10, seq := { held := some 0, status := 0, actual := 0 } }

/-- One Transfer of length 0. -/
def noByte : State := withMessage 1 [0x2000, 0x3000, 0, 0, 0] (twoOn platT)

/-- One verify Transfer of one byte, expected 0x9F, answered by `b`. -/
def verifyByte (b : Byte) : State :=
  withMessage 1 [0, 0x2000, 1, 0, 2] { twoOn platT with lineScript := slave [b] }

/-- Two Transfers of one byte each, the first with `cs_change`, answered by 0xA5 and 0x3C. -/
def twoBytes : State :=
  withMessage 2 [0x2000, 0x3000, 1, 0, 1, 0x2001, 0x3001, 1, 0, 0]
    { twoOn platT with lineScript := slave [0xA5, 0x3C] }

/-- A verify Transfer of two bytes, expected 0x9F 0x55, answered by 0x9E, before a Transfer whose descriptor sets
a reserved flag. -/
def shortThenMalformed : State :=
  withMessage 2 [0, 0x2000, 2, 0, 2, 0, 0, 0, 0, 4] { twoOn platT with lineScript := slave [0x9E] }

/-- One Transfer of 5 bytes, aligned, on the platform with the shift-register unit and a divider set; SCK idle. -/
def fastBytes : State :=
  withMessage 1 [0x2000, 0x3000, 5, 0, 0] { twoOn Config.reference with
    speed := speedFor Config.reference 30000000, lineScript := slave [1, 2, 3, 4, 5] }

/-- A Message with no Transfers. -/
def release : State := withMessage 0 [0, 0, 0, 0, 0] (twoOn platT)

/-- A queued Message with no Transfers and an awake worker. -/
def releaseQueued : State := { release with queue := [{ msg := 0x1000, dev := 0 }], busy := true }

/-- A state without an atomic caller meets the invariant's clause about it. -/
theorem callerHeld_of_idle {s : State} (hc : s.caller = .idle) :
    ∀ r d, s.caller = .processed r → r.held = some d → s.ready d = true := by
  intro r d h; rw [hc] at h; cases h

theorem twoOn_inv : Inv (twoOn platT) := by
  constructor <;> first | decide | rfl | exact callerHeld_of_idle rfl

theorem oneByte_inv : Inv oneByte := by
  constructor <;> first | decide | rfl | exact callerHeld_of_idle rfl

theorem oneByteHeld_inv : Inv oneByteHeld := by
  constructor <;> first | decide | rfl | exact callerHeld_of_idle rfl

theorem releaseQueued_inv : Inv releaseQueued := by
  constructor <;> first | decide | rfl | exact callerHeld_of_idle rfl

theorem reset_inv : Inv State.reset := by
  constructor <;> first | decide | rfl | exact callerHeld_of_idle rfl

theorem twoOn_select : SelectInv (twoOn platT) := by unfold SelectInv; decide

theorem oneByteHeld_select : SelectInv oneByteHeld := by unfold SelectInv; decide

theorem wit_EncodeOfDecode :
    decode { header := 0x91100120, arg0 := 7, arg1 := 0 } = .ok (.shiftWord 1 true 32 7) := by decide

theorem wit_StepRunsIssuedOperation :
    ({ twoOn platT with agenda := [.issue 0x02000000 0x1000 0] } : State).agenda
        = .issue 0x02000000 0x1000 0 :: [] ∧
      decode { header := 0x02000000, arg0 := 0x1000, arg1 := 0 } = .ok (.submit 0 0x1000) := by decide

theorem wit_StepRunsIssuedOperation_moves :
    (∀ a ∈ [Action.readReg 0x10 4, .writeReg 0x48 4 1, .store 0x1000 7, .worker],
      ({ twoOn platT with agenda := [a] } : State).agenda = a :: [] ∧
        runs (step { twoOn platT with agenda := [a] }) = true) ∧
      (twoOn platT).agenda = [] ∧
      (nextOf (step { twoOn platT with agenda := [.store 0x1000 7] }) State.reset).mem.read 0x1000 = some 7 ∧
      (nextOf (step { twoOn platT with agenda := [.readReg 0x84 4] }) State.reset).busData = 1000000 := by decide

theorem wit_CmdWriteRunsCommand :
    decodeCmd 0x01F000FF (twoOn platT).arg0 = .ok (.regdev 15 0 0xFF 0) ∧
      (decodeCmd 0x02000001 (twoOn platT).arg0).toBool = false := by decide

theorem wit_GpioSetDrivesMasks :
    (0x80 : Word) &&& 0x7F = 0 ∧ ownLines (twoOn platT).cfg (0x80 ||| 0x7F) = true := by decide

theorem wit_IllegalLineOperandsRefused :
    (0x80 : Word) &&& 0x80 ≠ 0 ∧ (0x100 : Word) &&& 0 = 0 ∧ ownLines (twoOn platT).cfg (0x100 ||| 0) = false ∧
      (2 : BitVec 2) ≠ 3 ∧ ownLines (twoOn platT).cfg 0x80000000 = false := by decide

theorem wit_GpioGetSamplesLines :
    oneByte.lineScript = 4 :: (slave [0xA5]).tail ∧ oneByte.cfg.nlines ≤ 32 ∧ oneByte.cfg.nlines ≤ 31 := by decide

theorem wit_GpioDirConfiguresLines :
    dirOperand 0 = some .input ∧ dirOperand 2 = some .openDrain ∧ ownLines (twoOn platT).cfg 0x80 = true := by decide

theorem wit_ShiftByteClockPhase1 : (twoOn platT).cfg.cpha1Supported = true := by decide

set_option maxRecDepth 16000 in
theorem wit_ShiftByteExitAndFrame :
    oneByte.cfg.wf = true ∧ runs (exec (.shiftByte true true true 0x80) oneByte) = true ∧
      runs (exec (.shiftByte false false false 1) oneByte) = true := by decide

theorem wit_ShiftWordOnTheWire :
    (twoOn Config.reference).cfg.engine = .hwShift ∧ (twoOn Config.reference).cfg.hasSlot 1 = true ∧
      1 ≤ (1 : BitVec 6).toNat ∧ (32 : BitVec 6).toNat ≤ 32 ∧ (twoOn Config.reference).cfg.wf = true := by decide

theorem wit_EngineStops :
    (twoOn platT).cfg.engine = .bitBang ∧ (twoOn Config.reference).cfg.engine = .hwShift ∧
      (twoOn Config.reference).cfg.hasSlot 0 = true ∧ (0 : BitVec 6).toNat = 0 ∧ 32 < (33 : BitVec 6).toNat ∧
      (twoOn { platT with cpha1Supported := false }).cfg.cpha1Supported = false := by decide

theorem wit_XferOfNothing : xferRuns noByte 0 0x1020 ∧ (transferAt 0x1020 noByte).len = 0 := by
  unfold xferRuns; decide

theorem wit_XferCompletesWithinRx :
    xferRuns oneByte 1 0x1020 ∧ (transferAt 0x1020 oneByte).verify = false ∧ oneByte.cfg.hwFaults = [] ∧
      xferRuns (verifyByte 0x9F) 0 0x1020 ∧ (transferAt 0x1020 (verifyByte 0x9F)).verify = true := by
  unfold xferRuns; decide

set_option maxRecDepth 16000 in
theorem wit_XferStoresReceivedBytes :
    runs (exec (.xfer 0 0x1020) oneByte) = true ∧ (transferAt 0x1020 oneByte).verify = false ∧
      (transferAt 0x1020 oneByte).rxPtr ≠ 0 ∧ oneByte.cfg.hwFaults = [] ∧ oneByte.cfg.wf = true ∧
      8 * (transferAt 0x1020 oneByte).len.toNat ≤ oneByte.lineScript.length ∧
      0 < (transferAt 0x1020 oneByte).len.toNat := by decide

/-- The fast path meets the hypotheses of the two statements too: it is eligible, and its one chunk and its one left
over byte complete. -/
theorem wit_fast_path :
    wordPath fastBytes 0 (transferAt 0x1020 fastBytes) ∧ fastBytes.speed.softDelayNs ≠ 0 ∧ fastBytes.cfg.wf = true ∧ fastBytes.raced = [] ∧
      (transferAt 0x1020 fastBytes).verify = false ∧ (transferAt 0x1020 fastBytes).rxPtr ≠ 0 ∧
      fastBytes.cfg.hwFaults = [] ∧
      8 * (transferAt 0x1020 fastBytes).len.toNat ≤ fastBytes.lineScript.length ∧
      buffersApart (transferAt 0x1020 fastBytes) ∧ xferRuns fastBytes 0 0x1020 := by
  unfold buffersApart xferRuns; decide

/-- XFER completes there, since its operands are legal. -/
theorem wit_fast_path_runs : runs (exec (.xfer 0 0x1020) fastBytes) = true := by
  obtain ⟨-, -, -, -, -, -, -, -, -, h1, h2, h3, h4, h5⟩ := wit_fast_path
  simp only [exec, execXfer, h1, h2, h3, h4, xferChecked, phaseOk]
  rfl

set_option maxRecDepth 16000 in
theorem wit_XferSendsTxBytes :
    runs (exec (.xfer 0 0x1020) oneByte) = true ∧ oneByte.cfg.wf = true ∧ oneByte.raced = [] ∧
      buffersApart (transferAt 0x1020 oneByte) ∧ (transferAt 0x1020 oneByte).verify = false ∧
      oneByte.cfg.hwFaults = [] := by unfold buffersApart; decide

set_option maxRecDepth 16000 in
theorem wit_VerifyStopsAtFirstMismatch (b : Byte) (hb : b = 0x9F ∨ b = 0x9E) :
    runs (exec (.xfer 0 0x1020) (verifyByte b)) = true ∧ (transferAt 0x1020 (verifyByte b)).verify = true ∧
      (verifyByte b).cfg.wf = true ∧ (verifyByte b).raced = [] ∧
      8 * (transferAt 0x1020 (verifyByte b)).len.toNat ≤ (verifyByte b).lineScript.length := by
  rcases hb with rfl | rfl <;> decide

theorem wit_SetSpeedEffect : (1 : Word) ≠ 0 ∧ (0xFFFFFFFF : Word) ≠ 0 := by decide

theorem wit_SpeedMonotone :
    (0 : Word).toNat < (1 : Word).toNat ∧ (1 : Word).toNat < (2 : Word).toNat ∧ 1 ≤ (1 : Word).toNat ∧
      (25000000 : Word).toNat < (100000000 : Word).toNat ∧
      selectDivider Config.reference 25000000 = some 3 := by decide

theorem wit_DividerIsFirstNotExceeding :
    Config.reference.divMin.toNat ≤ Config.reference.divMax.toNat ∧
      selectDivider Config.reference 1562500 = some 63 ∧ selectDivider Config.reference 1562499 = none ∧
      selectDivider platT 100000000 = none := by decide

theorem wit_SoftPeriodWithinTwoNs :
    1 ≤ (1 : Word).toNat ∧ platT.fixedOverheadNs.toNat ≤ 12 ∧ 2 * (500000000 : Word).toNat ∣ 1000000000 ∧
      1 ≤ (0xFFFFFFFF : Word).toNat := by decide

theorem wit_CsAssertEffect :
    (twoOn platK).ready 0 = true ∧ (twoOn platK).ready 1 = true ∧ (twoOn platK).cfg.wf = true := by decide

theorem wit_CsDeassertEffect :
    (twoOn platK).ready 0 = true ∧ (twoOn platK).ready 1 = true ∧ (twoOn platK).cfg.wf = true := by decide

theorem wit_UnregisteredSlotRefused :
    State.reset.misconfigured = false ∧ State.reset.ready 1 = false ∧ State.reset.ready 2 = false ∧
      State.reset.ready 15 = false ∧ State.reset.cfg.hasSlot 2 = false ∧ State.reset.cfg.engine = .hwShift := by decide

theorem wit_EmptyMessageReleasesSelect :
    messageRuns release 1 0x1000 ∧ release.raced = [] ∧ release.wordAt (0x1000 + 4) = 0 := by
  unfold messageRuns; decide

set_option maxRecDepth 16000 in
theorem wit_ResultFieldsWritten :
    runs (exec (.processMsg 0 0x1000) oneByte) = true ∧ runs (exec (.processMsg 1 0x1000) release) = true := by decide

theorem oneByte_starts : MessageStarts oneByte 0 0x1000 := by
  constructor <;> first | decide | (unfold messageRuns; decide)

theorem oneByteHeld_starts : MessageStarts oneByteHeld 0 0x1000 := by
  constructor <;> first | decide | (unfold messageRuns; decide)

theorem twoBytes_starts : MessageStarts twoBytes 0 0x1000 := by
  constructor <;> first | decide | (unfold messageRuns; decide)

theorem shortThenMalformed_starts : MessageStarts shortThenMalformed 0 0x1000 := by
  constructor <;> first | decide | (unfold messageRuns; decide)

/-- The state in which the worker calls PROCESS_MSG: its Message in the sequencer, the lock released. -/
def twoBytesServing : State :=
  { twoBytes with busy := true, worker := .serving, inflight := some { msg := 0x1000, dev := 0 } }

theorem twoBytesServing_starts : MessageStarts twoBytesServing 0 0x1000 := by
  constructor <;> first | decide | (unfold messageRuns; decide)

theorem wit_SingleTransferSelectEdges :
    messageServes oneByte 0 0x1000 ∧ messageServes oneByteHeld 0 0x1000 ∧ messageServes twoBytes 0 0x1000 ∧
      messageServes twoBytesServing 0 0x1000 ∧ oneByte.transferCount 0x1000 = 1 ∧ oneByte.heldCs = none ∧
      oneByteHeld.heldCs = some 0 :=
  ⟨⟨oneByte_starts, by decide⟩, ⟨oneByteHeld_starts, by decide⟩, ⟨twoBytes_starts, by decide⟩,
    ⟨twoBytesServing_starts, by decide⟩, by decide, by decide, by decide⟩

theorem wit_SingleTransferSelectEdges_short :
    MessageStarts shortThenMalformed 0 0x1000 ∧ descriptorOk shortThenMalformed 0x1000 0 ∧
      (shortThenMalformed.transferOf 0x1000 0).verify = true ∧ (shortThenMalformed.transferOf 0x1000 0).len ≠ 0 ∧
      8 ≤ shortThenMalformed.lineScript.length ∧
      shortThenMalformed.slaveByte 0 ≠
        shortThenMalformed.memByte (shortThenMalformed.transferOf 0x1000 0).rxPtr ∧
      ¬ descriptorOk shortThenMalformed 0x1000 1 :=
  ⟨shortThenMalformed_starts, by decide, by decide, by decide, by decide, by decide, by decide⟩

theorem wit_DeviceSwitchReleasesFirst :
    let s : State := { noByte with heldCs := some 0 }
    s.heldCs = some 0 ∧ (0 : Slot) ≠ 1 ∧ s.raced = [] ∧ s.wordAt (0x1000 + 4) ≠ 0 ∧
      runs (exec (.processMsg 1 0x1000) s) = true := by decide

set_option maxRecDepth 16000 in
theorem wit_MessageFrame :
    runs (exec (.processMsg 0 0x1000) oneByte) = true ∧ oneByte.raced = [] ∧ descriptorsKept oneByte 0x1000 ∧
      oneByte.transferCount 0x1000 = 1 ∧ outsideRx (oneByte.transferOf 0x1000 0) 0x3001 ∧
      ¬ outsideRx (oneByte.transferOf 0x1000 0) 0x3000 ∧ descriptorsKept twoBytes 0x1000 ∧
      outsideRx (twoBytes.transferOf 0x1000 1) 0x3002 :=
  ⟨by decide, by decide, by decide, by decide, by decide, by decide, by decide, by decide⟩

theorem wit_RegdevRegistersSlot :
    State.reset.misconfigured = false ∧ State.reset.cfg.hasSlot 1 = true ∧ (State.reset.dev 1).valid = false ∧
      (7 : Byte).extractLsb' 3 5 = 0 ∧ ((7 : Byte).getLsbD 0 = true → State.reset.cfg.cpha1Supported = true) ∧
      (1 : Word) ≠ 0 ∧ State.reset.cfg.wf = true := by decide

theorem wit_RegdevRejects :
    State.reset.misconfigured = false ∧ State.reset.cfg.hasSlot 1 = true ∧ (State.reset.dev 1).valid = false ∧
      (8 : Byte).extractLsb' 3 5 ≠ 0 ∧ (1 : Byte).getLsbD 0 = true ∧
      (State.constructed { platT with cpha1Supported := false }).cfg.cpha1Supported = false ∧ (9 : Byte) ≠ 8 ∧
      ((twoOn platT).dev 1).valid = true ∧ State.reset.cfg.hasSlot 2 = false := by decide

theorem wit_MisconfiguredAnswersOnly :
    (State.constructed { platT with gpioMapped := false }).misconfigured = true := by decide

theorem wit_SubmitAppendsToTail :
    (∀ s ∈ [twoOn platT, twoOn { platT with queueDepth := some 1 }],
      s.misconfigured = false ∧ s.ready 1 = true ∧ (s.cfg.queueDepth = some 1 → s.queue.length < 1)) ∧
    descriptorAddress 0xFFFFFFFC = true ∧ (twoOn platT).cfg.queueDepth = none := by decide

theorem wit_SubmissionStops :
    (twoOn { platT with queueDepth := some 0 }).misconfigured = false ∧
      (twoOn { platT with queueDepth := some 0 }).ready 0 = true ∧ descriptorAddress 0 = false ∧
      descriptorAddress 0x1002 = false ∧ descriptorAddress 4 = true ∧
      (twoOn { platT with queueDepth := some 0 }).cfg.queueDepth = some 0 ∧
      ({ twoOn platT with inflight := some { msg := 4, dev := 0 } } : State).inflight.isSome = true := by decide

/-- Malformed descriptors: over the register window, past the end of memory, a reserved flag; an array that ends past
the end of memory. -/
theorem wit_SubmissionStops_malformed :
    rangeOk platT 0xF0000000 20 = false ∧ rangeOk platT 0xEFFFFFF0 24 = false ∧ rangeOk platT 0xFFFFFFFC 20 = false ∧
      (transferAt 0x1034 shortThenMalformed).ok shortThenMalformed.cfg = false ∧
      transfersOk 0xFFFFFFFC 1 = false ∧ transfersOk 0 1 = false ∧ transfersOk 0x1002 1 = false ∧
      rangeOk platT 0x1000 24 = true := by decide

/-- A Message whose second descriptor is malformed, behind a complete first Transfer. -/
theorem wit_SubmissionStops_second :
    let s := withMessage 2 [0x2000, 0x3000, 1, 0, 1, 0, 0, 0, 0, 4] (twoOn platT)
    MessageStarts s 0 0x1000 ∧ s.cfg.hwFaults = [] ∧ 1 < s.transferCount 0x1000 ∧
      (∀ j < 1, (s.transferOf 0x1000 j).verify = false) ∧ ¬ descriptorOk s 0x1000 1 := by
  refine ⟨?_, by decide, by decide, by decide, by decide⟩
  constructor <;> first | decide | (unfold messageRuns; decide)

theorem wit_IdleWorkerTurns :
    let owing : State := { twoOn platT with busy := true, worker := .owes (some 0) }
    let awake : State := { twoOn platT with busy := true }
    (twoOn platT).busy = false ∧ (owing.busy = true ∧ owing.queue = [] ∧ owing.worker = .owes (some 0)) ∧
      awake.busy = true ∧ awake.queue = [] ∧ awake.worker = .atStart ∧ awake.inflight = none ∧
      (nextOf (act (.begin 0x03000000 0x1000) awake) awake).inflight.isSome = true ∧
      (nextOf (act (.begin 0x03000000 0x1000) awake) awake).worker = .atStart := by decide

theorem wit_SelectionPrefersHeldDevice :
    ([{ msg := 4, dev := 1 }, { msg := 8, dev := 0 }] : List Entry) ≠ [] ∧
      (∃ x ∈ ([{ msg := 4, dev := 1 }, { msg := 8, dev := 0 }] : List Entry), x.dev = 0) ∧
      (∀ x ∈ ([{ msg := 4, dev := 1 }] : List Entry), x.dev ≠ 0) := by decide

theorem wit_TurnServesOneMessage :
    releaseQueued.busy = true ∧ (writeBack releaseQueued).inflight = none ∧
      takeNext releaseQueued.queue (writeBack releaseQueued).heldCs = some ({ msg := 0x1000, dev := 0 }, []) ∧
      runs (exec .workerStep releaseQueued) = true := by decide

theorem wit_TurnServesOneMessage_serving :
    let s : State := { release with
      busy := true, worker := .serving, inflight := some { msg := 0x1000, dev := 0 } }
    s.busy = true ∧ s.worker = .serving ∧ s.inflight = some { msg := 0x1000, dev := 0 } ∧
      runs (exec .workerStep s) = true := by decide

theorem wit_WorkerServesReleaseMessage :
    messageServes twoBytesServing 0 0x1000 ∧ twoBytesServing.busy = true ∧ twoBytesServing.worker = .serving ∧
      twoBytesServing.inflight = some { msg := 0x1000, dev := 0 } ∧ twoBytesServing.cfg.queueDepth = none :=
  ⟨⟨twoBytesServing_starts, by decide⟩, by decide, by decide, by decide, by decide⟩

theorem wit_WorkerServesReleaseMessage_turn :
    let s : State := { twoBytes with busy := true, queue := [{ msg := 0x1000, dev := 0 }] }
    messageServes s 0 0x1000 ∧ (writeBack s).inflight = none ∧
      takeNext s.queue (writeBack s).heldCs = some ({ msg := 0x1000, dev := 0 }, []) := by
  refine ⟨⟨?_, by decide⟩, by decide, by decide⟩
  constructor <;> first | decide | (unfold messageRuns; decide)

theorem wit_WorkerServesReleaseMessage_empty :
    Inv releaseQueued ∧ releaseQueued.busy = true ∧
      takeNext releaseQueued.queue (writeBack releaseQueued).heldCs = some ({ msg := 0x1000, dev := 0 }, []) ∧
      (writeBack releaseQueued).inflight = none ∧ releaseQueued.raced = [] ∧ messageOk releaseQueued.cfg 0x1000 = .ok () ∧
      releaseQueued.wordAt (0x1000 + 4) = 0 ∧ releaseQueued.cfg.queueDepth = none :=
  ⟨releaseQueued_inv, by decide, by decide, by decide, by decide, by decide, by decide, by decide⟩

theorem wit_CompleteAppendsRecord :
    release.cfg.hasSlot 1 = true ∧ messageOk release.cfg 0x1000 = .ok () ∧ release.raced = [] ∧
      release.cfg.queueDepth = none ∧
      runs (exec (.complete 0 0x1000) { release with raced := [(0x1000, 4), (0x1100, 4)] }) = true := by decide

theorem wit_AtomicBypassesQueue :
    release.misconfigured = false ∧ runs (exec (.submitAtomic 0 0x1000) releaseQueued) = true ∧
      messageRuns release 1 0x1000 ∧ release.inflight = none ∧ release.raced = [] ∧
      release.wordAt (0x1000 + 4) = 0 := by unfold messageRuns; decide

theorem wit_AtomicBypassesQueue_served :
    messageServes twoBytes 0 0x1000 ∧ twoBytes.misconfigured = false ∧ twoBytes.inflight = none ∧
      (true = true ↔ ({ twoBytes with heldCs := some 1 } : State).busy = true ∨ ∃ e, some (1 : Slot) = some e ∧ e ≠ 0) :=
  ⟨⟨twoBytes_starts, by decide⟩, by decide, by decide, by decide⟩

theorem wit_AtomicBypassesQueue_parts :
    decode { header := 0x03000000, arg0 := 0x1000, arg1 := 0 } = .ok (.submitAtomic 0 0x1000) ∧
      release.ready 0 = true ∧ descriptorAddress 0x1000 = true ∧
      runs (beginAtomic 0 0x1000 release) = true ∧
      (let a := nextOf (beginAtomic 0 0x1000 release) release
       let b := nextOf (act .caller a) a
       runs (act .caller a) = true ∧ runs (act .caller b) = true ∧
        b.caller = .processed { held := none, status := 0, actual := 0 } ∧ b.raced = [] ∧
        (nextOf (act .caller b) b).answers[0]? = some 0) := by decide

theorem wit_AtomicHazardReleasesFirst :
    release.misconfigured = false ∧ release.raced = [] ∧ runs (exec (.submitAtomic 1 0x1000) release) = true ∧
      runs (exec (.submitAtomic 0 0x1000) { releaseQueued with heldCs := some 0 }) = true ∧
      runs (exec (.submitAtomic 1 0x1000) { release with heldCs := some 0 }) = true := by decide

theorem wit_RacedByteReadsAsAnyValue :
    ({ msg := 0x1000, dev := 0 } : Entry) ∈ releaseQueued.queue ∧
      twoBytesServing.inflight = some { msg := 0x1000, dev := 0 } ∧ (∀ h, twoBytesServing.worker ≠ .owes h) ∧
      (let s : State := { release with
          raced := [(0x1000, 0x1004)], inflight := some { msg := 0x1000, dev := 0 } };
        ((0x1000, 0x1004) : Word × Word) ∈ s.raced ∧ s.inflight = some { msg := 0x1000, dev := 0 }) := by
  refine ⟨by decide, by decide, fun h => ?_, by decide⟩
  show Worker.serving ≠ .owes h
  simp

theorem wit_SpeedAndDeviceRegisters :
    (twoOn platT).cfg.ndev ≤ 16 ∧ (0 : Slot).toNat < (twoOn platT).cfg.ndev ∧
      (1 : Slot).toNat < (twoOn platT).cfg.ndev := by decide

theorem wit_LineRegisters : Inv (twoOn platT) ∧ (twoOn platT).cfg.nlines ≤ 8 := ⟨twoOn_inv, by decide⟩

theorem wit_CompletionRegistersAndInterrupt :
    ({ release with comp := [{ msg := 4, callback := 1, context := 2, status := 0, actualLength := 3 }] } : State).comp
        = { msg := 4, callback := 1, context := 2, status := 0, actualLength := 3 } :: [] ∧ release.comp = [] := by
  decide

theorem wit_WindowAccessRules :
    (2 : Nat) ≠ 4 ∧ (0x11 : Word).toNat % 4 ≠ 0 ∧ (0x10 : Word).toNat % 4 = 0 ∧ (0x10 : Word) ≠ 0x48 ∧
      (0x7C : Word).toNat ≤ 0x7C ∧ 0x4C ≤ (0x4C : Word).toNat ∧
      0x80 + 8 * State.reset.cfg.ndev ≤ (0x90 : Word).toNat ∧ (0xFFFFFFFC : Word).toNat % 4 = 0 := by decide

theorem wit_ConstructionTable : platK.wf = true ∧ platK.gpioMapped = true ∧ platT.wf = true := by decide

theorem wit_ConstructionSequence :
    platK.wf = true ∧ ({ platT with gpioMapped := false } : Config).gpioMapped = false := by decide

theorem wit_ResetDiscardsWork :
    releaseQueued.cfg.wf = true ∧ runs (act .worker releaseQueued) = true ∧
      (∀ a v, Action.worker ≠ .store a v) ∧ (∀ off width, Action.worker ≠ .readReg off width) ∧
      (nextOf (act .worker releaseQueued) releaseQueued).trace.length = 7 :=
  ⟨by decide, by decide, by simp, by simp, by decide⟩

theorem wit_ResetMeetsInvariant :
    platK.wf = true ∧ ({ platT with gpioMapped := false } : Config).wf = true := by decide

theorem wit_StepKeepsInvariant :
    Inv State.reset ∧ runs (step State.reset) = true ∧ Inv releaseQueued ∧ runs (step releaseQueued) = true :=
  ⟨reset_inv, by decide, releaseQueued_inv, by decide⟩

theorem wit_HostMovesKeepSelect :
    Inv oneByteHeld ∧ SelectInv oneByteHeld ∧ oneByteHeld.hostMoves = true ∧ runs (step oneByteHeld) = true ∧
      SelectInv (twoOn platT) ∧ (twoOn platT).ready 0 = true :=
  ⟨oneByteHeld_inv, oneByteHeld_select, by decide, by decide, twoOn_select, by decide⟩

theorem wit_OnlyRegdevWritesSlots :
    let t := nextOf (exec (.regdev 1 8 0 1) State.reset) State.reset
    runs (exec (.regdev 1 8 0 1) State.reset) = true ∧ t.dev 1 ≠ State.reset.dev 1 := by decide

theorem wit_OnlyCompletionAppends :
    runs (exec .workerStep releaseQueued) = true ∧ runs (exec (.complete 0 0x1000) release) = true := by decide

theorem wit_StepKeepsPlatformAndTrace :
    runs (step { releaseQueued with agenda := [.reset] }) = true := by decide

end Sys2Proof.Tests
end

section
/-! SUPPORT. What a step is, move by move (spec/00_scope.md R8), and the relation `Extends` that every operation and
every move keeps: the platform is the same and the trace only grows (R4, R7). -/

namespace Sys2Proof.Machine

/-! ### The move a step makes (R8) -/

/-- With a move at the head of the agenda, a step is that move on the state without it. -/
theorem step_of_agenda_cons {s : State} {a : Action} {rest : List Action} (h : s.agenda = a :: rest) :
    step s = act a { s with agenda := rest } := by
  unfold step nextMove; rw [h]

/-- With an empty agenda, a step is the default move. -/
theorem step_of_agenda_nil {s : State} (h : s.agenda = []) : step s = act (defaultMove s) s := by
  unfold step nextMove; rw [h]

/-- The order of the default moves: the atomic caller, the oldest owed RESULT, the worker. -/
theorem act_defaultMove (s : State) :
    act (defaultMove s) s = if s.caller ≠ .idle then act .caller s
      else if s.answers ≠ [] then act (.answer 0) s else exec .workerStep s := by
  unfold defaultMove
  split
  · rfl
  · split <;> rfl

/-- Issuing a decodable triple runs the operation it names, with a host command's `arg0` in ARG0 (R65, R221). -/
theorem issue_of_decode {t : Triple} {i : Instr} (h : decode t = .ok i) (s : State) :
    issue t s = exec i (if hostClass t.header then { s with arg0 := t.arg0 } else s) := by
  unfold issue
  rw [h]
  cases hostClass t.header <;> rfl

/-- Settles O5: each clause is the head of the agenda, or the default move, read through `act`. -/
theorem stepRunsIssuedOperation : Obligations.StepRunsIssuedOperation := by
  refine ⟨fun s header arg0 arg1 rest i ha hd => ?_, fun s a rest ha => step_of_agenda_cons ha,
    fun s off width rest ha => step_of_agenda_cons ha, fun s off v width rest ha => step_of_agenda_cons ha,
    fun s a v rest ha => step_of_agenda_cons ha, fun s rest ha => step_of_agenda_cons ha,
    fun s ha => (step_of_agenda_nil ha).trans (act_defaultMove s)⟩
  calc step s = issue { header := header, arg0 := arg0, arg1 := arg1 } { s with agenda := rest } :=
        step_of_agenda_cons ha
    _ = _ := issue_of_decode hd _

/-! ### The relation -/

/-- `t` is on the platform of `s`, and its trace is that of `s` with events appended (R4, R7). -/
structure Extends (s t : State) : Prop where
  cfg : t.cfg = s.cfg
  trace : s.trace <+: t.trace

theorem Extends.trans {s t u : State} (h : Extends s t) (k : Extends t u) : Extends s u :=
  ⟨k.cfg.trans h.cfg, h.trace.trans k.trace⟩

/-- An update that writes neither the platform nor the trace. -/
theorem Extends.of_eq {s t : State} (hc : t.cfg = s.cfg) (ht : t.trace = s.trace) : Extends s t :=
  ⟨hc, [], (List.append_nil _).trans ht.symm⟩

theorem Extends.refl (s : State) : Extends s s := .of_eq rfl rfl

/-- What follows an update that writes neither the platform nor the trace. -/
theorem Extends.after_eq {s t u : State} (h : Extends t u) (hc : t.cfg = s.cfg) (ht : t.trace = s.trace) :
    Extends s u :=
  (Extends.of_eq hc ht).trans h

/-- An update that appends the events `l` to the trace. -/
theorem Extends.of_append {s t : State} {l : List Event} (hc : t.cfg = s.cfg) (ht : t.trace = s.trace ++ l) :
    Extends s t :=
  ⟨hc, l, ht.symm⟩

/-! ### Lines and host memory -/

theorem extends_lineSet (high low : Word) (s : State) : Extends s (lineSet high low s) := by
  rw [lineSet_eq]; exact .of_append rfl rfl

theorem extends_csTo (d : Slot) (v : Bool) (s : State) : Extends s (csTo d v s) := extends_lineSet _ _ s

theorem extends_lineDir (mask : Word) (dir : LineDir) (s : State) : Extends s (lineDir mask dir s) := by
  cases dir <;> exact .of_append rfl rfl

theorem extends_lineGet (s : State) : Extends s (lineGet s).2 := .of_append rfl rfl

theorem extends_waitNs (ns : Word) (s : State) : Extends s (waitNs ns s) := by
  rw [waitNs_eq]; exact .of_append rfl rfl

theorem extends_memRead1 (a : Word) (s : State) : Extends s (memRead1 a s).2 := .of_append rfl rfl

theorem extends_memRead4 (a : Word) (s : State) : Extends s (memRead4 a s).2 := .of_append rfl rfl

theorem extends_memWrite1 (a : Word) (b : Byte) (s : State) : Extends s (memWrite1 a b s) := .of_append rfl rfl

theorem extends_memWrite4 (a v : Word) (s : State) : Extends s (memWrite4 a v s) := .of_append rfl rfl

/-! ### The engine (R102 to R111) -/

/-- A loop of bits extends what it starts from when one bit does. -/
theorem extends_shiftBits {one : Bool → State → State} (h : ∀ b s, Extends s (one b s)) :
    ∀ k s, Extends s (shiftBits one k s)
  | 0, s => .refl s
  | k + 1, s => (h _ s).trans (extends_shiftBits h k _)

theorem extends_bitPhase0 (w cpol b : Bool) (s : State) : Extends s (bitPhase0 w cpol b s) := by
  rw [bitPhase0_eq]; exact .of_append rfl rfl

theorem extends_bitPhase1 (w cpol b : Bool) (s : State) : Extends s (bitPhase1 w cpol b s) := by
  rw [bitPhase1_eq]; exact .of_append rfl rfl

theorem extends_bitHw (cpol b : Bool) (s : State) : Extends s (bitHw cpol b s) := by
  rw [bitHw_eq]; exact .of_append rfl rfl

theorem extends_shiftByte (cpha cpol w : Bool) (tx : Byte) (s : State) :
    Extends s (shiftByte cpha cpol w tx s).2 := by
  have hone : ∀ b u, Extends u ((if cpha then bitPhase1 w cpol else bitPhase0 w cpol) b u) := by
    intro b u
    cases cpha
    · exact extends_bitPhase0 w cpol b u
    · exact extends_bitPhase1 w cpol b u
  have hloop := extends_shiftBits hone 8 (loadUnit ((s.srTx &&& 0xFFFFFF00) ||| tx.setWidth 32) 8 s)
  exact ⟨hloop.cfg, hloop.trace⟩

theorem extends_shiftWord (cs : Slot) (cpol : Bool) (count : BitVec 6) (tx : Word) (s : State) :
    Extends s (shiftWord cs cpol count tx s).2 := by
  have hloop := extends_shiftBits (extends_bitHw cpol) count.toNat
    (loadUnit tx count { s with hwCtrl := (encode (.shiftWord cs cpol count tx)).header })
  exact ⟨hloop.cfg, hloop.trace⟩

theorem extends_setBi (n : Nat) (s : State) : Extends s (setBi n s) := .of_eq rfl rfl

theorem extends_txByte (t : Transfer) (n : Nat) (s : State) : Extends s (txByte t n s).2 := by
  unfold txByte
  split
  · exact .refl s
  · exact extends_memRead1 _ s

theorem extends_txWord (t : Transfer) (n : Nat) (s : State) : Extends s (txWord t n s).2 := by
  unfold txWord
  split
  · exact .refl s
  · exact (extends_memRead1 _ s).trans <| (extends_memRead1 _ _).trans <|
      (extends_memRead1 _ _).trans (extends_memRead1 _ _)

theorem extends_rxWord (t : Transfer) (n : Nat) (r : Word) (s : State) : Extends s (rxWord t n r s) := by
  unfold rxWord
  split
  · exact .refl s
  · exact (extends_memWrite1 _ _ s).trans <| (extends_memWrite1 _ _ _).trans <|
      (extends_memWrite1 _ _ _).trans (extends_memWrite1 _ _ _)

theorem extends_fastLoop (d : Slot) (t : Transfer) : ∀ k n s, Extends s (fastLoop d t k n s).state
  | 0, _, s => .refl s
  | k + 1, n, s => by
    have hword : Extends s
        (shiftWord d s.latch.cpol 32 (txWord t n (setBi n s)).1 (txWord t n (setBi n s)).2).2 :=
      (extends_setBi n s).trans <| (extends_txWord t n _).trans (extends_shiftWord ..)
    simp only [fastLoop]
    split
    · exact hword
    · exact hword.trans <| (extends_rxWord t n _ _).trans (extends_fastLoop d t k _ _)

theorem extends_byteLoop (t : Transfer) : ∀ k n s, Extends s (byteLoop t k n s).state
  | 0, _, s => .refl s
  | k + 1, n, s => by
    have hbyte : Extends s
        (shiftByte s.latch.cpha s.latch.cpol (decide (t.rxPtr ≠ 0)) (txByte t n (setBi n s)).1
          (txByte t n (setBi n s)).2).2 :=
      (extends_setBi n s).trans <| (extends_txByte t n _).trans (extends_shiftByte ..)
    simp only [byteLoop]
    split
    · split
      · exact hbyte.trans <| (extends_memRead1 _ _).trans (extends_byteLoop t k _ _)
      · exact hbyte.trans (extends_memRead1 _ _)
    · split
      · exact hbyte.trans <| (extends_memWrite1 _ _ _).trans (extends_byteLoop t k _ _)
      · exact hbyte.trans (extends_byteLoop t k _ _)

theorem extends_fastPart (d : Slot) (t : Transfer) (s : State) : Extends s (fastPart d t s).state := by
  unfold fastPart
  split
  · exact extends_fastLoop ..
  · exact .refl s

theorem extends_bytePart (t : Transfer) (p : Progress) : Extends p.state (bytePart t p).state := by
  unfold bytePart
  split
  · exact .refl _
  · exact extends_byteLoop ..

theorem extends_xfer (d : Slot) (t : Transfer) (s : State) : Extends s (xfer d t s).2 :=
  (extends_fastPart d t s).trans <| (extends_bytePart t _).trans (extends_setBi 0 _)

/-! ### Speed (R121, R124) -/

/-- What SET_SPEED does, when it has a meaning. -/
theorem setSpeedChecked_ok {hz : Word} {s t : State} (h : setSpeedChecked hz s = .ok t) : t = setSpeed hz s := by
  unfold setSpeedChecked at h
  split at h
  · cases h
  · cases h; rfl

theorem extends_setSpeedChecked {hz : Word} {s t : State} (h : setSpeedChecked hz s = .ok t) : Extends s t := by
  rw [setSpeedChecked_ok h]; exact .of_eq rfl rfl

theorem extends_applySpeed {hz : Word} {s t : State} (h : applySpeed hz s = .ok t) : Extends s t := by
  unfold applySpeed at h
  split at h
  · cases h; exact .refl s
  · exact extends_setSpeedChecked h

/-! ### Selects and Messages (R136 to R143) -/

theorem extends_csAssert (d : Slot) (s : State) : Extends s (csAssert d s) := by
  rw [csAssert_eq]; exact .of_append rfl rfl

theorem extends_csDeassert (d : Slot) (s : State) : Extends s (csDeassert d s) := by
  rw [csDeassert_eq]; exact .of_append rfl rfl

theorem extends_releaseHeld (h : Option Slot) (s : State) : Extends s (releaseHeld h s) := by
  obtain ⟨out, heq⟩ := releaseHeld_eq h s
  rw [heq]; exact .of_append rfl rfl

theorem extends_readTransfer (a : Word) (s : State) : Extends s (readTransfer a s).2 :=
  (extends_memRead4 _ s).trans <| (extends_memRead4 _ _).trans <| (extends_memRead4 _ _).trans <|
    (extends_memRead4 _ _).trans (extends_memRead4 _ _)

theorem extends_runTransfer {d : Slot} {a : Word} {asserted : Bool} {s : State} {t : Transfer} {got : Word}
    {s' : State} (h : runTransfer d a asserted s = .ok (t, got, s')) : Extends s s' := by
  obtain ⟨selected, timed, -, -, -, hsel, htimed, hx⟩ := runTransfer_ok h
  have hselected : Extends s selected := by
    rw [hsel]
    split
    · exact extends_readTransfer a s
    · exact (extends_readTransfer a s).trans (extends_csAssert d _)
  obtain rfl : s' = (xfer d t timed).2 := congrArg Prod.snd hx
  exact hselected.trans <| (extends_applySpeed htimed).trans (extends_xfer d t timed)

theorem extends_runTransfers {d : Slot} {ptr : Word} :
    ∀ {left xi : Nat} {asserted : Bool} {actual : Word} {s : State} {r : SeqResult} {s' : State},
      runTransfers d ptr left xi asserted actual s = .ok (r, s') → Extends s s'
  | 0, _, _, _, s, _, _, h => by
    simp only [runTransfers, Except.ok.injEq, Prod.mk.injEq] at h
    exact h.2 ▸ .refl s
  | left + 1, xi, asserted, actual, s, r, s', h => by
    simp only [runTransfers] at h
    split at h
    · cases h
    · rename_i t got u hu
      have hone : Extends s u := (extends_runTransfer hu).after_eq rfl rfl
      split at h
      · cases h; exact hone.trans (extends_csDeassert d u)
      · split at h
        · exact hone.trans <| (extends_csDeassert d u).trans (extends_runTransfers h)
        · exact hone.trans (extends_runTransfers h)

theorem extends_runMessage {d : Slot} {ptr : Word} {cnt : Nat} {h : Option Slot} {s : State} {r : SeqResult}
    {s' : State} (hr : runMessage d ptr cnt h s = .ok (r, s')) : Extends s s' := by
  unfold runMessage at hr
  split at hr
  · cases hr; exact extends_releaseHeld h s
  · split at hr
    · cases hr
    · split at hr
      · exact extends_runTransfers hr
      · exact (extends_releaseHeld h s).trans (extends_runTransfers hr)

theorem extends_writeResults (m : Word) (r : SeqResult) (s : State) : Extends s (writeResults m r s) := by
  have hwords := (extends_memWrite4 (m + 0x10) r.status s).trans (extends_memWrite4 (m + 0x14) r.actual _)
  exact ⟨hwords.cfg, hwords.trace⟩

theorem extends_processMsg {d : Slot} {m : Word} {h : Option Slot} {s t : State}
    (hp : processMsg d m h s = .ok t) : Extends s t := by
  obtain ⟨r, u, -, -, hr, rfl⟩ := processMsg_ok hp
  exact (extends_memRead4 m s).trans <| (extends_memRead4 (m + 4) _).trans <|
    (extends_runMessage hr).trans (extends_writeResults m r u)

/-! ### The dispatcher (R155 to R165) -/

theorem extends_registerDevice (d : Slot) (mode : Byte) (hz : Word) (s : State) :
    Extends s (registerDevice d mode hz s) := by
  have hlines := (extends_csTo d (!mode.getLsbD 2) (setDev d (registered mode hz) s)).trans
    (extends_lineDir (bit (s.cfg.slot d).cs) .pushPull _)
  exact ⟨hlines.cfg, hlines.trace⟩

theorem extends_completeMsg {m : Word} {s t : State} (h : completeMsg m s = .ok t) : Extends s t := by
  obtain ⟨r, u, -, -, rfl, -, rfl⟩ := completeMsg_ok h
  exact (extends_memRead4 (m + 8) s).trans <| (extends_memRead4 (m + 12) _).trans (.of_append rfl rfl)

theorem extends_writeBack (s : State) : Extends s (writeBack s) := by
  rcases writeBack_eq s with ⟨h, -, heq⟩ | ⟨-, heq⟩ <;> rw [heq] <;> exact .of_eq rfl rfl

theorem extends_lockRegion (s : State) : Extends s (lockRegion s) := by
  refine (extends_writeBack s).trans ?_
  rcases lockRegion_cases s with ⟨-, heq⟩ | ⟨-, -, heq⟩ | ⟨e, rest, -, -, heq⟩ <;>
    rw [heq] <;> exact .of_eq rfl rfl

theorem extends_workerLock (s : State) : Extends s (workerLock s) := by
  unfold workerLock
  split
  · exact extends_lockRegion s
  · exact .refl s

theorem extends_serve {e : Entry} {s t : State} (h : serve e s = .ok t) : Extends s t := by
  obtain ⟨u, v, hu, hv, rfl⟩ := serve_ok h
  exact (extends_processMsg hu).trans <| (extends_completeMsg hv).trans (.of_eq rfl rfl)

theorem extends_serveCurrent {s t : State} (h : serveCurrent s = .ok t) : Extends s t := by
  unfold serveCurrent at h
  split at h
  · exact extends_serve h
  · cases h; exact .refl s

theorem extends_workerTurn {s t : State} (h : workerTurn s = .ok t) : Extends s t :=
  (extends_lockRegion s).trans (extends_serveCurrent h)

theorem extends_admission {d : Slot} {m : Word} {s t : State} (h : admission d m s = .ok t) : Extends s t := by
  obtain ⟨-, -, -, rfl⟩ := admission_ok.1 h
  exact .of_eq rfl rfl

theorem extends_processAtomic {hazard : Bool} {e : Entry} {s t : State} (h : processAtomic hazard e s = .ok t) :
    Extends s t := by
  obtain ⟨u, hu, rfl⟩ := processAtomic_ok h
  have hrelease : Extends s (if hazard then releaseHeld s.heldCs s else s) := by
    split
    · exact extends_releaseHeld _ s
    · exact .refl s
  exact hrelease.trans <| (extends_processMsg hu).trans (.of_eq rfl rfl)

theorem extends_writeBackAtomic (r : SeqResult) (s : State) : Extends s (writeBackAtomic r s) := by
  unfold writeBackAtomic
  cases s.inflight <;> exact .of_eq rfl rfl

theorem extends_callerMove {s t : State} (h : callerMove s = .ok t) : Extends s t := by
  unfold callerMove at h
  split at h
  · exact extends_processAtomic h
  · cases h; exact extends_writeBackAtomic _ s
  · cases h; exact .refl s

theorem extends_writeAnswer (i : Nat) (s : State) : Extends s (writeAnswer i s) := by
  unfold writeAnswer
  split <;> exact .of_eq rfl rfl

/-- SUBMIT_ATOMIC issued whole is its parts in order (R164). -/
theorem runAtomic_ok {d : Slot} {m : Word} {s t : State} (h : runAtomic d m s = .ok t) :
    ∃ s1 s2 s3, admission d m s = .ok s1 ∧ callerMove s1 = .ok s2 ∧ callerMove s2 = .ok s3 ∧
      t = writeAnswer s.answers.length s3 := by
  unfold runAtomic at h
  split at h
  · cases h
  · rename_i s1 h1
    split at h
    · cases h
    · rename_i s2 h2
      split at h
      · cases h
      · rename_i s3 h3
        cases h
        exact ⟨s1, s2, s3, h1, h2, h3, rfl⟩

theorem extends_runAtomic {d : Slot} {m : Word} {s t : State} (h : runAtomic d m s = .ok t) : Extends s t := by
  obtain ⟨s1, s2, s3, h1, h2, h3, rfl⟩ := runAtomic_ok h
  exact (extends_admission h1).trans <| (extends_callerMove h2).trans <|
    (extends_callerMove h3).trans (extends_writeAnswer _ s3)

/-! ### Operations -/

/-- An operation without refusals of its own answers a next state where its parts do. -/
theorem outcome_eq_next {x : Except Refusal State} {t : State} : outcome x = .next t ↔ x = .ok t := by
  cases x <;> simp [outcome]

theorem extends_execRegdev {dev : Slot} {bpw mode : Byte} {hz : Word} {s t : State}
    (h : execRegdev dev bpw mode hz s = .next t) : Extends s t := by
  unfold execRegdev at h
  split at h
  · cases h; exact .of_eq rfl rfl
  · split at h
    · cases h
    · split at h
      · cases h
      · split at h
        · cases h; exact .of_eq rfl rfl
        · cases h; exact extends_registerDevice dev mode hz s

theorem extends_execSubmit {dev : Slot} {msg : Word} {s t : State} (h : execSubmit dev msg s = .next t) :
    Extends s t := by
  unfold execSubmit at h
  split at h
  · cases h; exact .of_eq rfl rfl
  · split at h
    · cases h
    · split at h
      · cases h; exact .of_eq rfl rfl
      · cases h

theorem extends_beginAtomic {d : Slot} {m : Word} {s t : State} (h : beginAtomic d m s = .next t) :
    Extends s t := by
  unfold beginAtomic at h
  split at h
  · cases h; exact .of_eq rfl rfl
  · exact extends_admission (outcome_eq_next.1 h)

theorem extends_execSubmitAtomic {dev : Slot} {msg : Word} {s t : State}
    (h : execSubmitAtomic dev msg s = .next t) : Extends s t := by
  unfold execSubmitAtomic at h
  split at h
  · cases h; exact .of_eq rfl rfl
  · exact extends_runAtomic (outcome_eq_next.1 h)

theorem extends_execGpioSet {high low : Word} {s t : State} (h : execGpioSet high low s = .next t) :
    Extends s t := by
  unfold execGpioSet at h
  split at h
  · cases h
  · split at h
    · cases h; exact extends_lineSet high low s
    · cases h

theorem extends_execGpioGet {s t : State} (h : execGpioGet s = .next t) : Extends s t := by
  cases h; exact (extends_lineGet s).trans (.of_eq rfl rfl)

theorem extends_execGpioDir {direction : BitVec 2} {mask : Word} {s t : State}
    (h : execGpioDir direction mask s = .next t) : Extends s t := by
  unfold execGpioDir at h
  split at h
  · cases h
  · split at h
    · cases h; exact extends_lineDir mask _ s
    · cases h

theorem extends_execDelay {ns : Word} {s t : State} (h : execDelay ns s = .next t) : Extends s t := by
  cases h; exact extends_waitNs ns s

theorem extends_execShiftByte {cpha cpol w : Bool} {tx : Byte} {s t : State}
    (h : execShiftByte cpha cpol w tx s = .next t) : Extends s t := by
  unfold execShiftByte at h
  split at h
  · cases h
  · cases h; exact (extends_shiftByte cpha cpol w tx s).trans (.of_eq rfl rfl)

theorem extends_execShiftWord {cs : Slot} {cpol : Bool} {count : BitVec 6} {tx : Word} {s t : State}
    (h : execShiftWord cs cpol count tx s = .next t) : Extends s t := by
  unfold execShiftWord at h
  split at h
  · cases h
  · split at h
    · cases h
    · split at h
      · cases h
      · cases h; exact (extends_shiftWord cs cpol count tx s).trans (.of_eq rfl rfl)

theorem extends_execXfer {dev : Slot} {desc : Word} {s t : State} (h : execXfer dev desc s = .next t) :
    Extends s t := by
  unfold execXfer at h
  split at h
  · cases h
  · split at h
    · cases h
    · split at h
      · cases h
      · split at h
        · cases h
        · rename_i r hr
          obtain rfl := xferChecked_ok hr
          cases h
          exact (extends_xfer dev _ s).trans (.of_eq rfl rfl)

/-- A guarded operation that answers a next state answers the guarded one. -/
theorem guarded_eq_next {check : Except Refusal Unit} {s t : State} (h : guarded check s = .next t) : t = s := by
  unfold guarded at h
  split at h
  · cases h; rfl
  · cases h

theorem extends_execComplete {dev : Slot} {msg : Word} {s t : State} (h : execComplete dev msg s = .next t) :
    Extends s t := by
  unfold execComplete at h
  split at h
  · exact extends_completeMsg (outcome_eq_next.1 h)
  · cases h

theorem extends_execWorkerStep {s t : State} (h : execWorkerStep s = .next t) : Extends s t := by
  unfold execWorkerStep at h
  split at h
  · exact extends_workerTurn (outcome_eq_next.1 h)
  · cases h; exact .refl s

/-- Every operation keeps the platform and takes no event back. -/
theorem extends_exec {i : Instr} {s t : State} (h : exec i s = .next t) : Extends s t := by
  cases i with
  | regdev dev bpw mode hz => exact extends_execRegdev h
  | submit dev msg => exact extends_execSubmit h
  | submitAtomic dev msg => exact extends_execSubmitAtomic h
  | gpioSet high low => exact extends_execGpioSet h
  | gpioGet => exact extends_execGpioGet h
  | gpioDir direction mask => exact extends_execGpioDir h
  | delay ns => exact extends_execDelay h
  | shiftByte cpha cpol wantRx tx => exact extends_execShiftByte h
  | shiftWord cs cpol count tx => exact extends_execShiftWord h
  | xfer dev desc => exact extends_execXfer h
  | setSpeed hz => exact extends_setSpeedChecked (outcome_eq_next.1 h)
  | csAssert dev => rw [guarded_eq_next h]; exact extends_csAssert dev s
  | csDeassert dev => rw [guarded_eq_next h]; exact extends_csDeassert dev s
  | processMsg dev msg => exact extends_processMsg (outcome_eq_next.1 h)
  | workerStep => exact extends_execWorkerStep h
  | complete dev msg => exact extends_execComplete h

/-! ### Moves (R22, R57, R65, R212) -/

theorem extends_issue {tr : Triple} {s t : State} (h : issue tr s = .next t) : Extends s t := by
  unfold issue at h
  split at h
  · cases h
  · split at h
    · exact (extends_exec h).after_eq rfl rfl
    · exact extends_exec h

theorem extends_beginCommand {header arg0 : Word} {s t : State} (h : beginCommand header arg0 s = .next t) :
    Extends s t := by
  unfold beginCommand at h
  split at h
  · exact (extends_beginAtomic h).after_eq rfl rfl
  · exact extends_issue h

theorem extends_writeCmd {w : Word} {s t : State} (h : writeCmd w s = .next t) : Extends s t := by
  unfold writeCmd at h
  split at h
  · cases h
  · exact extends_exec h

theorem extends_writeReg {off v : Word} {width : Nat} {s t : State} (h : writeReg off width v s = .next t) :
    Extends s t := by
  unfold writeReg at h
  split at h
  · cases h
  · split at h
    · exact extends_writeCmd h
    · split at h
      · cases h; exact .of_eq rfl rfl
      · split at h
        · cases h; exact .of_eq rfl rfl
        · split at h <;> cases h <;> exact .of_eq rfl rfl

theorem extends_readReg {off : Word} {width : Nat} {s t : State} (h : readReg off width s = .next t) :
    Extends s t := by
  unfold readReg at h
  split at h
  · cases h
  · split at h <;> cases h <;> exact .of_eq rfl rfl

theorem extends_construction (s : State) : Extends s (construction s) := by
  unfold construction
  split
  · exact (extends_lineSet _ _ s).trans <| (extends_lineDir _ _ _).trans (extends_lineDir _ _ _)
  · exact .refl s

/-- A reset keeps the trace and appends the events of construction to it (log 14, R210). -/
theorem extends_resetNow (s : State) : Extends s (resetNow s) :=
  (extends_construction _).after_eq rfl rfl

/-- A reset inside a move appends the events of the move that have happened, then those of construction (R212). -/
theorem extends_resetWithin (n : Nat) (s t : State) : Extends s (resetWithin n s t) := by
  obtain ⟨done, -, heq⟩ := resetWithin_eq n s t
  rw [heq]
  have hevents : Extends s { s with trace := s.trace ++ done } := .of_append rfl rfl
  exact hevents.trans ((extends_resetNow _).after_eq rfl rfl)

/-- Every move of every agent keeps the platform and takes no event back. -/
theorem extends_act : ∀ {a : Action} {s t : State}, act a s = .next t → Extends s t
  | .issue .., _, _, h => extends_issue h
  | .begin .., _, _, h => extends_beginCommand h
  | .caller, _, _, h => extends_callerMove (outcome_eq_next.1 h)
  | .answer i, s, _, h => by cases h; exact extends_writeAnswer i s
  | .writeReg .., _, _, h => extends_writeReg h
  | .readReg .., _, _, h => extends_readReg h
  | .store .., _, _, h => by cases h; exact .of_eq rfl rfl
  | .worker, _, _, h => extends_exec (i := .workerStep) h
  | .workerLock, s, _, h => by cases h; exact extends_workerLock s
  | .reset, s, _, h => by cases h; exact extends_resetNow s
  | .resetDuring _ n, s, _, h => by
    simp only [act] at h
    split at h
    · cases h; exact extends_resetWithin n s _
    · cases h
    · cases h

theorem extends_step {s t : State} (h : step s = .next t) : Extends s t := by
  cases ha : s.agenda with
  | nil => exact extends_act ((step_of_agenda_nil ha).symm.trans h)
  | cons a rest => exact (extends_act ((step_of_agenda_cons ha).symm.trans h)).after_eq rfl rfl

/-- Settles O60: every move is built of updates that keep the platform and append to the trace. -/
theorem stepKeepsPlatformAndTrace : Obligations.StepKeepsPlatformAndTrace := by
  intro s t h
  obtain ⟨hcfg, later, htrace⟩ := extends_step h
  exact ⟨hcfg, later, htrace.symm⟩

end Sys2Proof.Machine
end

section
/-! SUPPORT. Masks of the lines the block owns (spec/00_scope.md R4, D12): which lines they name, and that every update
of the latch register keeps to them. -/

namespace Sys2Proof.Machine

variable {c : Config}

/-! ### The lines below NLINES -/

/-- The mask of all own lines names exactly the lines below NLINES. -/
theorem getLsbD_lineMask (h : c.nlines ≤ 32) (i : Nat) : c.lineMask.getLsbD i = decide (i < c.nlines) := by
  unfold Config.lineMask maskBelow
  rw [BitVec.getLsbD_ofNat, Nat.testBit_two_pow_sub_one, ← Bool.decide_and, decide_eq_decide]
  omega

theorem ownLines_iff {m : Word} : ownLines c m = true ↔ m &&& ~~~c.lineMask = 0 := decide_eq_true_iff

/-- A mask of own lines, line by line. -/
theorem ownLines_iff_getLsbD {m : Word} :
    ownLines c m = true ↔ ∀ i < 32, c.lineMask.getLsbD i = false → m.getLsbD i = false := by
  rw [ownLines_iff]
  constructor
  · intro h i hi hmask
    have hbit := congrArg (fun w => w.getLsbD i) h
    simpa only [BitVec.getLsbD_and, BitVec.getLsbD_not, hi, hmask, decide_true, Bool.not_false, Bool.and_true,
      BitVec.ofNat_eq_ofNat, BitVec.getLsbD_zero] using hbit
  · intro h
    refine BitVec.eq_of_getLsbD_eq fun i hi => ?_
    rw [BitVec.getLsbD_and, BitVec.getLsbD_not]
    cases hmask : c.lineMask.getLsbD i
    · rw [h i hi hmask]; simp
    · simp

/-- A mask of own lines has no bit at or above NLINES. -/
theorem getLsbD_of_ownLines {m : Word} (hn : c.nlines ≤ 32) (h : ownLines c m = true) {i : Nat} (hi : i < 32)
    (hge : c.nlines ≤ i) : m.getLsbD i = false :=
  ownLines_iff_getLsbD.1 h i hi ((getLsbD_lineMask hn i).trans (decide_eq_false (by omega)))

/-! ### Masks built from own masks -/

theorem ownLines_zero : ownLines c 0 = true := ownLines_iff.2 BitVec.zero_and

theorem ownLines_bit (h : c.wf = true) {n : Nat} (hn : n < c.nlines) : ownLines c (bit n) = true := by
  refine ownLines_iff_getLsbD.2 fun i hi hmask => ?_
  rw [getLsbD_lineMask (Config.wf_nlines h)] at hmask
  rw [getLsbD_bit n i hi]
  exact decide_eq_false fun he => of_decide_eq_false hmask (he ▸ hn)

theorem ownLines_or {m m' : Word} : ownLines c (m ||| m') = true ↔ ownLines c m = true ∧ ownLines c m' = true := by
  simp only [ownLines_iff_getLsbD, BitVec.getLsbD_or, Bool.or_eq_false_iff]
  exact ⟨fun h => ⟨fun i hi hm => (h i hi hm).1, fun i hi hm => (h i hi hm).2⟩,
    fun h i hi hm => ⟨h.1 i hi hm, h.2 i hi hm⟩⟩

/-- Taking lines away from an own mask leaves an own mask. -/
theorem ownLines_and {m m' : Word} (h : ownLines c m = true) : ownLines c (m &&& m') = true := by
  simp only [ownLines_iff_getLsbD, BitVec.getLsbD_and] at h ⊢
  exact fun i hi hm => by rw [h i hi hm, Bool.false_and]

/-- The masks of every slot joined are own lines when each slot's mask is. -/
theorem ownLines_foldr {f : SlotConfig → Word} : ∀ {l : List SlotConfig}, (∀ p ∈ l, ownLines c (f p) = true) →
    ownLines c (l.foldr (fun p m => f p ||| m) 0) = true
  | [], _ => ownLines_zero
  | p :: _, h => ownLines_or.2 ⟨h p List.mem_cons_self, ownLines_foldr fun q hq => h q (List.mem_cons_of_mem _ hq)⟩

/-! ### The masks of a legal platform -/

/-- The three bus lines are below NLINES. -/
theorem wf_bus_lt (h : c.wf = true) : c.sck < c.nlines ∧ c.mosi < c.nlines ∧ c.miso < c.nlines :=
  ⟨Config.wf_bounded h _ (by simp), Config.wf_bounded h _ (by simp), Config.wf_bounded h _ (by simp)⟩

/-- The chip-select line of an existing slot is below NLINES. -/
theorem wf_cs_lt (h : c.wf = true) {d : Slot} (hd : c.hasSlot d = true) : (c.slot d).cs < c.nlines :=
  Config.wf_bounded h _ (List.mem_append_right _ (List.mem_map_of_mem (Config.slot_mem hd)))

/-- The hooks of a slot name own lines only. -/
theorem ownLines_hooks (h : c.wf = true) {p : SlotConfig} (hp : p ∈ c.slots) :
    ownLines c p.auxHigh = true ∧ ownLines c p.auxLow = true ∧ ownLines c p.strobe = true := by
  have hooks := (Config.wf_hooks h hp).2
  have hmask : ∀ i, c.lineMask.getLsbD i = false →
      i = c.sck ∨ i = c.mosi ∨ i = c.miso ∨ (∃ q ∈ c.slots, q.cs = i) ∨ c.lineMask.getLsbD i = false :=
    fun i hm => .inr (.inr (.inr (.inr hm)))
  exact ⟨ownLines_iff_getLsbD.2 fun i hi hm => (hooks i hi (hmask i hm)).1,
    ownLines_iff_getLsbD.2 fun i hi hm => (hooks i hi (hmask i hm)).2.1,
    ownLines_iff_getLsbD.2 fun i hi hm => (hooks i hi (hmask i hm)).2.2⟩

/-- Construction latches own lines high only, and makes own lines outputs only (R210). -/
theorem ownLines_construction (h : c.wf = true) :
    ownLines c c.allAuxLow = true ∧ ownLines c c.resetPP = true := by
  have high : ownLines c c.allAuxHigh = true := ownLines_foldr fun p hp => (ownLines_hooks h hp).1
  have low : ownLines c c.allAuxLow = true := ownLines_foldr fun p hp => (ownLines_hooks h hp).2.1
  have strobe : ownLines c c.allStrobe = true := ownLines_foldr fun p hp => (ownLines_hooks h hp).2.2
  have bus : ownLines c (bit c.sck ||| bit c.mosi) = true :=
    ownLines_or.2 ⟨ownLines_bit h (wf_bus_lt h).1, ownLines_bit h (wf_bus_lt h).2.1⟩
  exact ⟨low, ownLines_or.2 ⟨ownLines_or.2 ⟨ownLines_or.2 ⟨bus, high⟩, low⟩, strobe⟩⟩

/-! ### The latch register -/

theorem ownLines_maskOut {high low out : Word} (hh : ownLines c high = true) (ho : ownLines c out = true) :
    ownLines c (maskOut high low out) = true := ownLines_and (ownLines_or.2 ⟨ho, hh⟩)

theorem ownLines_lineOut (h : c.wf = true) {n : Nat} (hn : n < c.nlines) (v : Bool) {out : Word}
    (ho : ownLines c out = true) : ownLines c (lineOut n v out) = true := by
  refine ownLines_maskOut ?_ ho
  cases v
  · exact ownLines_zero
  · exact ownLines_bit h hn

theorem ownLines_setupOut (h : c.wf = true) {p : SlotConfig} (hp : p ∈ c.slots) {out : Word}
    (ho : ownLines c out = true) : ownLines c (setupOut p out) = true := by
  unfold setupOut
  split
  · exact ho
  · exact ownLines_maskOut (ownLines_hooks h hp).1 ho

theorem ownLines_teardownOut (h : c.wf = true) {p : SlotConfig} (hp : p ∈ c.slots) {out : Word}
    (ho : ownLines c out = true) : ownLines c (teardownOut p out) = true := by
  obtain ⟨-, hlow, hstrobe⟩ := ownLines_hooks h hp
  have undone : ownLines c (if p.auxHigh ||| p.auxLow = 0 then out else maskOut p.auxLow p.auxHigh out) = true := by
    split
    · exact ho
    · exact ownLines_maskOut hlow ho
  unfold teardownOut
  simp only
  split
  · exact undone
  · exact ownLines_maskOut ownLines_zero (ownLines_maskOut hstrobe undone)

end Sys2Proof.Machine
end

section
/-! SUPPORT. The invariant's part that lines, engine, speed and memory operations write, `EngineOk`, and that each of
them keeps it from one unit boundary to the next (spec/10_state.md R11, R12, R16, spec/20_memory.md R40). -/

namespace Sys2Proof.Machine

/-- The fields of `Inv` about what the lines, the engine and the memory operations write. -/
structure EngineOk (s : State) : Prop where
  platform : s.cfg.wf = true
  memory : s.mem.wf = true
  latchLines : ownLines s.cfg s.gpioOut = true
  unitDone : s.bitCnt = 0
  speed : speedOk s.cfg s.speed

theorem Inv.engineOk {s : State} (h : Inv s) : EngineOk s :=
  { h with latchLines := ownLines_iff.2 h.latchLines }

/-! ### One unit on the wire -/

/-- A loop of bits keeps what one bit keeps. -/
theorem shiftBits_keeps {P : State → Prop} {one : Bool → State → State} (h : ∀ b s, P s → P (one b s)) :
    ∀ k s, P s → P (shiftBits one k s)
  | 0, _, hs => hs
  | k + 1, _, hs => shiftBits_keeps h k _ (h _ _ hs)

/-- The platform is legal and the latch register keeps to its lines. -/
def LatchOk (s : State) : Prop := s.cfg.wf = true ∧ ownLines s.cfg s.gpioOut = true

theorem LatchOk.sck {s : State} (h : LatchOk s) (v : Bool) : ownLines s.cfg (lineOut s.cfg.sck v s.gpioOut) = true :=
  ownLines_lineOut h.1 (wf_bus_lt h.1).1 v h.2

/-- A bit drives MOSI and then SCK: the latch register keeps to its lines. -/
theorem LatchOk.mosi_sck {s : State} (h : LatchOk s) (b v : Bool) :
    ownLines s.cfg (lineOut s.cfg.sck v (lineOut s.cfg.mosi b s.gpioOut)) = true :=
  ownLines_lineOut h.1 (wf_bus_lt h.1).1 v (ownLines_lineOut h.1 (wf_bus_lt h.1).2.1 b h.2)

theorem latchOk_bitPhase0 (w cpol b : Bool) (s : State) (h : LatchOk s) : LatchOk (bitPhase0 w cpol b s) := by
  rw [bitPhase0_eq]; exact ⟨h.1, h.mosi_sck b cpol⟩

theorem latchOk_bitPhase1 (w cpol b : Bool) (s : State) (h : LatchOk s) : LatchOk (bitPhase1 w cpol b s) := by
  have hlead : LatchOk { s with gpioOut := lineOut s.cfg.sck (!cpol) s.gpioOut } := ⟨h.1, h.sck (!cpol)⟩
  rw [bitPhase1_eq]
  exact ⟨h.1, hlead.mosi_sck b cpol⟩

theorem latchOk_bitHw (cpol b : Bool) (s : State) (h : LatchOk s) : LatchOk (bitHw cpol b s) := by
  rw [bitHw_eq]; exact ⟨h.1, h.mosi_sck b cpol⟩

/-- A unit loaded with its number of bits keeps `EngineOk`: its bits keep the latch register to its lines, and BITCNT
counts down to 0 (R104). -/
theorem EngineOk.unit {one : Bool → State → State} {w : Bool} {ev : Bool → Word → List Event} {k : Nat}
    {s loaded : State} (h : EngineOk s) (hsame : SameUnit s (endUnit (shiftBits one k loaded)))
    (hcfg : loaded.cfg = s.cfg) (hout : loaded.gpioOut = s.gpioOut) (hcount : loaded.bitCnt = BitVec.ofNat 6 k)
    (hstep : BitStep one w ev loaded.cfg loaded.speed.softDelayNs) (hlatch : ∀ b u, LatchOk u → LatchOk (one b u)) :
    EngineOk (endUnit (shiftBits one k loaded)) := by
  have hloaded : LatchOk loaded := ⟨hcfg ▸ h.platform, by rw [hcfg, hout]; exact h.latchLines⟩
  have hbits : LatchOk (shiftBits one k loaded) := shiftBits_keeps hlatch k loaded hloaded
  constructor
  case platform => exact hbits.1
  case memory => exact hsame.mem ▸ h.memory
  case latchLines => exact hbits.2
  case unitDone =>
    rw [endUnit_bitCnt, (shiftBits_unit hstep k loaded rfl rfl).bitCnt, hcount]
    exact BitVec.sub_self _
  case speed => rw [hsame.cfg, hsame.speed]; exact h.speed

theorem engineOk_shiftByte (cpha cpol w : Bool) (tx : Byte) {s : State} (h : EngineOk s) :
    EngineOk (shiftByte cpha cpol w tx s).2 := by
  have hsame := sameUnit_shiftByte cpha cpol w tx s
  cases cpha
  · exact h.unit hsame rfl rfl rfl (bitStep_phase0 w cpol _ _) (latchOk_bitPhase0 w cpol)
  · exact h.unit hsame rfl rfl rfl (bitStep_phase1 w cpol _ _) (latchOk_bitPhase1 w cpol)

theorem engineOk_shiftWord (cs : Slot) (cpol : Bool) (count : BitVec 6) (tx : Word) {s : State} (h : EngineOk s) :
    EngineOk (shiftWord cs cpol count tx s).2 := by
  have hcount : count = BitVec.ofNat 6 count.toNat := by rw [BitVec.ofNat_toNat, BitVec.setWidth_eq]
  exact h.unit (sameUnit_shiftWord cs cpol count tx s) rfl rfl hcount (bitStep_hw cpol _ _) (latchOk_bitHw cpol)

/-! ### One Transfer -/

theorem engineOk_memRead1 (a : Word) {s : State} (h : EngineOk s) : EngineOk (memRead1 a s).2 := { h with }

theorem engineOk_memRead4 (a : Word) {s : State} (h : EngineOk s) : EngineOk (memRead4 a s).2 := { h with }

theorem engineOk_memWrite1 (a : Word) (b : Byte) {s : State} (h : EngineOk s) : EngineOk (memWrite1 a b s) :=
  { h with memory := memWrite1_wf a b s h.memory }

theorem engineOk_memWrite4 (a v : Word) {s : State} (h : EngineOk s) : EngineOk (memWrite4 a v s) :=
  { h with memory := memWrite4_wf a v s h.memory }

theorem engineOk_setBi (n : Nat) {s : State} (h : EngineOk s) : EngineOk (setBi n s) := { h with }

theorem engineOk_txByte (t : Transfer) (n : Nat) {s : State} (h : EngineOk s) : EngineOk (txByte t n s).2 := by
  unfold txByte
  split
  · exact h
  · exact engineOk_memRead1 _ h

theorem engineOk_txWord (t : Transfer) (n : Nat) {s : State} (h : EngineOk s) : EngineOk (txWord t n s).2 := by
  unfold txWord
  split
  · exact h
  · exact engineOk_memRead1 _ (engineOk_memRead1 _ (engineOk_memRead1 _ (engineOk_memRead1 _ h)))

theorem engineOk_rxWord (t : Transfer) (n : Nat) (r : Word) {s : State} (h : EngineOk s) :
    EngineOk (rxWord t n r s) := by
  unfold rxWord
  split
  · exact h
  · exact engineOk_memWrite1 _ _ (engineOk_memWrite1 _ _ (engineOk_memWrite1 _ _ (engineOk_memWrite1 _ _ h)))

theorem engineOk_fastLoop (d : Slot) (t : Transfer) : ∀ k n s, EngineOk s → EngineOk (fastLoop d t k n s).state
  | 0, _, _, h => h
  | k + 1, n, s, h => by
    have hword : EngineOk
        (shiftWord d s.latch.cpol 32 (txWord t n (setBi n s)).1 (txWord t n (setBi n s)).2).2 :=
      engineOk_shiftWord _ _ _ _ (engineOk_txWord t n (engineOk_setBi n h))
    simp only [fastLoop]
    split
    · exact hword
    · exact engineOk_fastLoop d t k _ _ (engineOk_rxWord t n _ hword)

theorem engineOk_byteLoop (t : Transfer) : ∀ k n s, EngineOk s → EngineOk (byteLoop t k n s).state
  | 0, _, _, h => h
  | k + 1, n, s, h => by
    have hbyte : EngineOk
        (shiftByte s.latch.cpha s.latch.cpol (decide (t.rxPtr ≠ 0)) (txByte t n (setBi n s)).1
          (txByte t n (setBi n s)).2).2 :=
      engineOk_shiftByte _ _ _ _ (engineOk_txByte t n (engineOk_setBi n h))
    simp only [byteLoop]
    split
    · split
      · exact engineOk_byteLoop t k _ _ (engineOk_memRead1 _ hbyte)
      · exact engineOk_memRead1 _ hbyte
    · split
      · exact engineOk_byteLoop t k _ _ (engineOk_memWrite1 _ _ hbyte)
      · exact engineOk_byteLoop t k _ _ hbyte

theorem engineOk_xfer (d : Slot) (t : Transfer) {s : State} (h : EngineOk s) : EngineOk (xfer d t s).2 := by
  have hfast : EngineOk (fastPart d t s).state := by
    unfold fastPart
    split
    · exact engineOk_fastLoop d t _ _ s h
    · exact h
  have hbytes : EngineOk (bytePart t (fastPart d t s)).state := by
    unfold bytePart
    split
    · exact hfast
    · exact engineOk_byteLoop t _ _ _ hfast
  exact engineOk_setBi 0 hbytes

/-! ### Lines, selects and speed -/

theorem engineOk_lineSet {high low : Word} {s : State} (h : EngineOk s) (hh : ownLines s.cfg high = true) :
    EngineOk (lineSet high low s) := by
  rw [lineSet_maskOut]
  exact { h with latchLines := ownLines_maskOut hh h.latchLines }

theorem engineOk_csTo {d : Slot} {s : State} (h : EngineOk s) (hd : s.cfg.hasSlot d = true) (v : Bool) :
    EngineOk (csTo d v s) := by
  unfold csTo
  rw [lineTo_eq]
  exact { h with latchLines := ownLines_lineOut h.platform (wf_cs_lt h.platform hd) v h.latchLines }

theorem engineOk_csAssert {d : Slot} {s : State} (h : EngineOk s) (hd : s.cfg.hasSlot d = true) :
    EngineOk (csAssert d s) := by
  have hsck := LatchOk.sck ⟨h.platform, h.latchLines⟩ (s.dev d).cpol
  have hcs := ownLines_lineOut h.platform (wf_cs_lt h.platform hd) (s.dev d).csHigh hsck
  rw [csAssert_eq]
  exact { h with latchLines := ownLines_setupOut h.platform (Config.slot_mem hd) hcs }

theorem engineOk_csDeassert {d : Slot} {s : State} (h : EngineOk s) (hd : s.cfg.hasSlot d = true) :
    EngineOk (csDeassert d s) := by
  have hcs := ownLines_lineOut h.platform (wf_cs_lt h.platform hd) (!(s.dev d).csHigh) h.latchLines
  rw [csDeassert_eq]
  exact { h with latchLines := ownLines_teardownOut h.platform (Config.slot_mem hd) hcs }

theorem engineOk_releaseHeld {held : Option Slot} {s : State} (h : EngineOk s)
    (hd : ∀ e, held = some e → s.cfg.hasSlot e = true) : EngineOk (releaseHeld held s) := by
  cases held with
  | none => exact h
  | some e => exact engineOk_csDeassert h (hd e rfl)

/-- SET_SPEED leaves the speed state of its request, which is not 0 (R121). -/
theorem engineOk_setSpeedChecked {hz : Word} {s t : State} (h : EngineOk s) (ht : setSpeedChecked hz s = .ok t) :
    EngineOk t := by
  unfold setSpeedChecked at ht
  split at ht
  · cases ht
  · rename_i hz0
    cases ht
    exact { h with speed := ⟨hz0, rfl⟩ }

theorem engineOk_applySpeed {hz : Word} {s t : State} (h : EngineOk s) (ht : applySpeed hz s = .ok t) :
    EngineOk t := by
  unfold applySpeed at ht
  split at ht
  · cases ht; exact h
  · exact engineOk_setSpeedChecked h ht

/-! ### Messages -/

theorem engineOk_runTransfer {d : Slot} {a : Word} {asserted : Bool} {s : State} {t : Transfer} {got : Word}
    {s' : State} (hr : runTransfer d a asserted s = .ok (t, got, s')) (h : EngineOk s)
    (hd : s.cfg.hasSlot d = true) : EngineOk s' := by
  obtain ⟨selected, timed, -, -, -, hsel, htimed, hx⟩ := runTransfer_ok hr
  have hread : EngineOk (readTransfer a s).2 := engineOk_memRead4 _ <| engineOk_memRead4 _ <| engineOk_memRead4 _ <|
    engineOk_memRead4 _ <| engineOk_memRead4 _ h
  have hselected : EngineOk selected := by
    rw [hsel]
    split
    · exact hread
    · exact engineOk_csAssert hread hd
  obtain rfl : s' = (xfer d t timed).2 := congrArg Prod.snd hx
  exact engineOk_xfer d t (engineOk_applySpeed hselected htimed)

/-- The Transfers of a Message keep `EngineOk`, and only the Message's own select is returned as held. -/
theorem engineOk_runTransfers {d : Slot} {ptr : Word} :
    ∀ {left xi : Nat} {asserted : Bool} {actual : Word} {s : State} {r : SeqResult} {s' : State},
      runTransfers d ptr left xi asserted actual s = .ok (r, s') → EngineOk s → s.cfg.hasSlot d = true →
        EngineOk s' ∧ ∀ e, r.held = some e → e = d
  | 0, _, asserted, _, s, r, s', hr, h, _ => by
    simp only [runTransfers, Except.ok.injEq, Prod.mk.injEq] at hr
    obtain ⟨rfl, rfl⟩ := hr
    exact ⟨h, fun e he => by cases asserted <;> simp_all⟩
  | left + 1, xi, asserted, actual, s, r, s', hr, h, hd => by
    simp only [runTransfers] at hr
    split at hr
    · cases hr
    · rename_i t got u hu
      have hone : EngineOk u := engineOk_runTransfer hu { h with } hd
      have hdu : u.cfg.hasSlot d = true := (sameControl_runTransfer hu).cfg ▸ hd
      have hreleased : EngineOk (csDeassert d u) := engineOk_csDeassert hone hdu
      split at hr
      · cases hr; exact ⟨hreleased, fun e he => by cases he⟩
      · split at hr
        · exact engineOk_runTransfers hr hreleased ((sameControl_csDeassert d u).cfg ▸ hdu)
        · exact engineOk_runTransfers hr hone hdu

theorem engineOk_runMessage {d : Slot} {ptr : Word} {cnt : Nat} {held : Option Slot} {s : State} {r : SeqResult}
    {s' : State} (hr : runMessage d ptr cnt held s = .ok (r, s')) (h : EngineOk s) (hd : s.cfg.hasSlot d = true)
    (hheld : ∀ e, held = some e → s.cfg.hasSlot e = true) : EngineOk s' ∧ ∀ e, r.held = some e → e = d := by
  have hreleased : EngineOk (releaseHeld held s) := engineOk_releaseHeld h hheld
  unfold runMessage at hr
  split at hr
  · cases hr; exact ⟨hreleased, fun e he => by cases he⟩
  · split at hr
    · cases hr
    · split at hr
      · exact engineOk_runTransfers hr h hd
      · exact engineOk_runTransfers hr hreleased ((sameControl_releaseHeld held s).cfg ▸ hd)

/-- `EngineOk` says nothing of the result of PROCESS_MSG. -/
theorem engineOk_withSeq {s : State} (h : EngineOk s) (r : SeqResult) : EngineOk { s with seq := r } := { h with }

theorem engineOk_writeResults (m : Word) (r : SeqResult) {s : State} (h : EngineOk s) :
    EngineOk (writeResults m r s) :=
  engineOk_withSeq (engineOk_memWrite4 _ _ (engineOk_memWrite4 _ _ h)) r

/-- PROCESS_MSG keeps `EngineOk`, and a select it returns as held is that of its own, registered device (R139). -/
theorem engineOk_processMsg {d : Slot} {m : Word} {held : Option Slot} {s t : State}
    (hp : processMsg d m held s = .ok t) (h : EngineOk s) (hheld : ∀ e, held = some e → s.cfg.hasSlot e = true) :
    EngineOk t ∧ ∀ e, t.seq.held = some e → s.ready e = true := by
  obtain ⟨r, u, hslot, -, hr, rfl⟩ := processMsg_ok hp
  have hready : s.ready d = true := slotReady_ok.1 hslot
  have hd : s.cfg.hasSlot d = true := (Bool.and_eq_true_iff.1 hready).1
  obtain ⟨hu, hown⟩ := engineOk_runMessage hr (engineOk_memRead4 _ (engineOk_memRead4 _ h)) hd hheld
  exact ⟨engineOk_writeResults m r hu, fun e he => hown e he ▸ hready⟩

end Sys2Proof.Machine
end

section
/-! SUPPORT. What each operation can do, when it answers a next state: one inversion lemma per meaning of `exec`, so
that statements about every operation split into these cases and unfold no meaning again. -/

namespace Sys2Proof.Machine

/-! ### The host commands (R155, R157, R164) -/

theorem submitOperands_ok {d : Slot} {m : Word} {s : State} :
    submitOperands d m s = .ok () ↔ s.ready d = true ∧ descriptorAddress m = true := by
  rw [← slotReady_ok]
  unfold submitOperands
  cases slotReady d s <;> cases descriptorAddress m <;> simp

/-- REGDEV records an error in RESULT, or registers the device (R155, R182, R183). -/
theorem execRegdev_next {d : Slot} {bpw mode : Byte} {hz : Word} {s t : State}
    (h : execRegdev d bpw mode hz s = .next t) :
    (∃ e, t = raiseInResult e s) ∨
      (s.misconfigured = false ∧ s.cfg.hasSlot d = true ∧ (s.dev d).valid = false ∧
        modeUnsupported s.cfg mode bpw hz = false ∧ t = registerDevice d mode hz s) := by
  unfold execRegdev at h
  split at h
  · cases h; exact .inl ⟨_, rfl⟩
  · rename_i hmis
    split at h
    · cases h
    · rename_i hslot
      split at h
      · cases h
      · rename_i hvalid
        split at h
        · cases h; exact .inl ⟨_, rfl⟩
        · rename_i hmode
          cases h
          exact .inr ⟨by simpa using hmis, by simpa using hslot, by simpa using hvalid, by simpa using hmode, rfl⟩

/-- SUBMIT records BusMisconfigured in RESULT, or appends its entry (R157, R183). -/
theorem execSubmit_next {d : Slot} {m : Word} {s t : State} (h : execSubmit d m s = .next t) :
    (∃ e, t = raiseInResult e s) ∨
      (s.ready d = true ∧ descriptorAddress m = true ∧ t = enqueue { msg := m, dev := d } s) := by
  unfold execSubmit at h
  split at h
  · cases h; exact .inl ⟨_, rfl⟩
  · split at h
    · cases h
    · rename_i hops
      obtain ⟨hready, haddr⟩ := submitOperands_ok.1 hops
      split at h
      · cases h; exact .inr ⟨hready, haddr, rfl⟩
      · cases h

theorem beginAtomic_next {d : Slot} {m : Word} {s t : State} (h : beginAtomic d m s = .next t) :
    (∃ e, t = raiseInResult e s) ∨ admission d m s = .ok t := by
  unfold beginAtomic at h
  split at h
  · cases h; exact .inl ⟨_, rfl⟩
  · exact .inr (outcome_eq_next.1 h)

theorem execSubmitAtomic_next {d : Slot} {m : Word} {s t : State} (h : execSubmitAtomic d m s = .next t) :
    (∃ e, t = raiseInResult e s) ∨ runAtomic d m s = .ok t := by
  unfold execSubmitAtomic at h
  split at h
  · cases h; exact .inl ⟨_, rfl⟩
  · exact .inr (outcome_eq_next.1 h)

/-! ### Lines and shifts (R90, R94, R102, R106, R110) -/

theorem execGpioSet_next {high low : Word} {s t : State} (h : execGpioSet high low s = .next t) :
    ownLines s.cfg (high ||| low) = true ∧ t = lineSet high low s := by
  unfold execGpioSet at h
  split at h
  · cases h
  · split at h
    · rename_i hown; cases h; exact ⟨hown, rfl⟩
    · cases h

theorem execGpioDir_next {direction : BitVec 2} {mask : Word} {s t : State}
    (h : execGpioDir direction mask s = .next t) :
    ownLines s.cfg mask = true ∧ ∃ dir, t = lineDir mask dir s := by
  unfold execGpioDir at h
  split at h
  · cases h
  · split at h
    · rename_i dir _ hown; cases h; exact ⟨hown, dir, rfl⟩
    · cases h

theorem execShiftByte_next {cpha cpol w : Bool} {tx : Byte} {s t : State}
    (h : execShiftByte cpha cpol w tx s = .next t) :
    ∃ ret, t = { (shiftByte cpha cpol w tx s).2 with ret := ret } := by
  unfold execShiftByte at h
  split at h
  · cases h
  · cases h; exact ⟨_, rfl⟩

theorem execShiftWord_next {cs : Slot} {cpol : Bool} {count : BitVec 6} {tx : Word} {s t : State}
    (h : execShiftWord cs cpol count tx s = .next t) :
    ∃ ret, t = { (shiftWord cs cpol count tx s).2 with ret := ret } := by
  unfold execShiftWord at h
  split at h
  · cases h
  · split at h
    · cases h
    · split at h
      · cases h
      · cases h; exact ⟨_, rfl⟩

theorem execXfer_next {d : Slot} {desc : Word} {s t : State} (h : execXfer d desc s = .next t) :
    ∃ ret, t = { (xfer d (transferAt desc s) s).2 with ret := ret } := by
  unfold execXfer at h
  split at h
  · cases h
  · split at h
    · cases h
    · split at h
      · cases h
      · split at h
        · cases h
        · rename_i r hr
          obtain rfl := xferChecked_ok hr
          cases h
          exact ⟨_, rfl⟩

/-! ### Selects, the worker and completion (R136, R137, R160, R162) -/

/-- An operation on a slot that answers a next state found the slot registered. -/
theorem guarded_slotReady_next {d : Slot} {s u t : State} (h : guarded (slotReady d s) u = .next t) :
    s.ready d = true ∧ t = u := by
  refine ⟨slotReady_ok.1 ?_, guarded_eq_next h⟩
  unfold guarded at h
  split at h
  · assumption
  · cases h

theorem execWorkerStep_next {s t : State} (h : execWorkerStep s = .next t) :
    (s.busy = true ∧ workerTurn s = .ok t) ∨ (s.busy = false ∧ t = s) := by
  unfold execWorkerStep at h
  split at h
  · rename_i hb; exact .inl ⟨hb, outcome_eq_next.1 h⟩
  · rename_i hb; cases h; exact .inr ⟨by simpa using hb, rfl⟩

/-- The rest of a turn serves the Message in the sequencer, or has nothing to do (R160). -/
theorem serveCurrent_ok {s t : State} (h : serveCurrent s = .ok t) :
    (∃ e, s.worker = .serving ∧ s.inflight = some e ∧ serve e s = .ok t) ∨ t = s := by
  unfold serveCurrent at h
  split at h
  · rename_i e hw hi; exact .inl ⟨e, hw, hi, h⟩
  · cases h; exact .inr rfl

theorem execComplete_next {d : Slot} {m : Word} {s t : State} (h : execComplete d m s = .next t) :
    completeMsg m s = .ok t := by
  unfold execComplete at h
  split at h
  · exact outcome_eq_next.1 h
  · cases h

/-- COMPLETE writes the completion FIFO and the marks and none of the other fields of `SameControl`. -/
theorem sameControl_completeMsg {m : Word} {s t : State} (h : completeMsg m s = .ok t) :
    SameControl { s with comp := t.comp, raced := t.raced } t := by
  obtain ⟨r, u, -, -, rfl, -, rfl⟩ := completeMsg_ok h
  constructor <;> rfl

/-! ### The atomic caller (R164) -/

/-- The atomic caller processes its Message, or writes back, or has nothing to do (R164). -/
theorem callerMove_ok {s t : State} (h : callerMove s = .ok t) :
    (∃ hazard e, s.caller = .admitted hazard ∧ s.inflight = some e ∧ processAtomic hazard e s = .ok t) ∨
      (∃ r, s.caller = .processed r ∧ t = writeBackAtomic r s) ∨ t = s := by
  unfold callerMove at h
  split at h
  · rename_i hazard e hc hi; exact .inl ⟨hazard, e, hc, hi, h⟩
  · rename_i r hc; cases h; exact .inr (.inl ⟨r, hc, rfl⟩)
  · cases h; exact .inr (.inr rfl)

/-- The write-back of SUBMIT_ATOMIC: the select of its result, a free sequencer, the answer, and marks dropped. -/
theorem writeBackAtomic_eq (r : SeqResult) (s : State) :
    ∃ raced, writeBackAtomic r s = { s with raced := raced, heldCs := r.held, inflight := none, caller := .idle
                                            answers := s.answers ++ [resultOf r.status] } := by
  unfold writeBackAtomic
  cases s.inflight <;> exact ⟨_, rfl⟩

/-- RESULT of an owed answer is written and the answer goes, or there is none. -/
theorem writeAnswer_eq (i : Nat) (s : State) :
    ∃ result answers, writeAnswer i s = { s with result := result, answers := answers } := by
  unfold writeAnswer
  cases s.answers[i]? <;> exact ⟨_, _, rfl⟩

end Sys2Proof.Machine
end

section
/-! SUPPORT. Every step keeps the invariant (spec/10_state.md R11 to R20, spec/44_queue_dispatcher.md R155 to R165,
spec/70_reset_and_hazards.md R210, R212): one lemma for each operation, then for each move. -/

namespace Sys2Proof.Machine

/-! ### The device table -/

theorem dev_setDev_same (d : Slot) (v : Device) (s : State) : (setDev d v s).dev d = v := by
  unfold State.dev
  simp only [setDev_devs, Vector.getElem_set_self]

theorem dev_setDev_other {d e : Slot} (v : Device) (s : State) (h : e ≠ d) : (setDev d v s).dev e = s.dev e := by
  have hne : d.toNat ≠ e.toNat := fun heq => h (BitVec.eq_of_toNat_eq heq.symm)
  unfold State.dev
  simp only [setDev_devs, Vector.getElem_set_ne _ _ hne]

/-- Registering a slot leaves every registered slot registered. -/
theorem ready_setDev {d e : Slot} {v : Device} {s : State} (hv : v.valid = true) (h : s.ready e = true) :
    (setDev d v s).ready e = true := by
  unfold State.ready at h ⊢
  rw [Bool.and_eq_true] at h ⊢
  refine ⟨h.1, ?_⟩
  by_cases he : e = d
  · rw [he, dev_setDev_same]; exact hv
  · rw [dev_setDev_other v s he]; exact h.2

theorem dev_powerOn (c : Config) (d : Slot) : (State.powerOn c).dev d = Device.blank := by
  simp [State.dev, State.powerOn]

theorem hasSlot_of_ready {s : State} {d : Slot} (h : s.ready d = true) : s.cfg.hasSlot d = true :=
  (Bool.and_eq_true_iff.1 h).1

/-! ### What the invariant says of the worker and the atomic caller -/

/-- With nothing in the sequencer neither the worker nor the atomic caller is past its locked region (R15, R53). -/
theorem Inv.idle_of_inflight_none {s : State} (h : Inv s) (hi : s.inflight = none) :
    s.worker = .atStart ∧ s.caller = .idle := by
  have hnot : ¬ (s.worker ≠ .atStart ∨ s.caller ≠ .idle) := fun hc => by
    have := h.sequencer.2 hc
    rw [hi] at this
    cases this
  exact ⟨not_not.1 fun hw => hnot (.inl hw), not_not.1 fun hc => hnot (.inr hc)⟩

theorem Inv.caller_idle {s : State} (h : Inv s) (hw : s.worker ≠ .atStart) : s.caller = .idle :=
  h.oneAgent.resolve_left hw

theorem Inv.worker_atStart {s : State} (h : Inv s) (hc : s.caller ≠ .idle) : s.worker = .atStart :=
  h.oneAgent.resolve_right hc

/-! ### Engine, line and memory operations -/

/-- What leaves the fields of `SameControl` alone, the result of PROCESS_MSG apart, keeps the invariant when it keeps
`EngineOk` and the select it returns as held is a registered device's. -/
theorem Inv.of_sameControl {s t : State} (h : Inv s) (hc : SameControl { s with seq := t.seq } t) (he : EngineOk t)
    (hheld : ∀ d, t.seq.held = some d → s.ready d = true) : Inv t := by
  have hdev : ∀ d, t.dev d = s.dev d := hc.dev
  have hready : ∀ d, t.ready d = s.ready d := hc.ready
  have hentry : ∀ e, t.entryOk e = s.entryOk e := fun e => by unfold State.entryOk; rw [hready]
  constructor
  case platform => exact he.platform
  case memory => exact he.memory
  case latchLines => exact ownLines_iff.1 he.latchLines
  case pushPullLines => rw [hc.gpioPP, hc.cfg]; exact h.pushPullLines
  case openDrainLines => rw [hc.gpioOD, hc.cfg]; exact h.openDrainLines
  case oneDirection => rw [hc.gpioPP, hc.gpioOD]; exact h.oneDirection
  case devices => intro d; rw [hdev, hc.cfg]; exact h.devices d
  case queued => rw [hc.queue]; exact fun e hm => (hentry e).trans (h.queued e hm)
  case awake => rw [hc.queue, hc.busy]; exact h.awake
  case held => rw [hc.heldCs]; exact fun d hd => (hready d).trans (h.held d hd)
  case lastHeld => exact fun d hd => (hready d).trans (hheld d hd)
  case owedHeld => rw [hc.worker]; exact fun d hd => (hready d).trans (h.owedHeld d hd)
  case callerHeld => rw [hc.caller]; exact fun r d hr hd => (hready d).trans (h.callerHeld r d hr hd)
  case current => rw [hc.inflight]; exact fun e hi => (hentry e).trans (h.current e hi)
  case sequencer => rw [hc.inflight, hc.worker, hc.caller]; exact h.sequencer
  case oneAgent => rw [hc.worker, hc.caller]; exact h.oneAgent
  case running => rw [hc.worker, hc.busy]; exact h.running
  case mark => rw [hc.misconfigured, hc.cfg]; exact h.mark
  case noDevice => rw [hc.misconfigured]; exact fun hm d => hdev d ▸ h.noDevice hm d
  case unitDone => exact he.unitDone
  case speed => exact he.speed

/-- The same for what leaves the result of PROCESS_MSG alone too. -/
theorem Inv.of_engine {s t : State} (h : Inv s) (hc : SameControl s t) (he : EngineOk t) : Inv t :=
  h.of_sameControl (t := t) { hc with seq := rfl } he (hc.seq ▸ h.lastHeld)

theorem inv_lineSet {high low : Word} {s : State} (h : Inv s) (hh : ownLines s.cfg high = true) :
    Inv (lineSet high low s) := h.of_engine (sameControl_lineSet high low s) (engineOk_lineSet h.engineOk hh)

/-- Moving the lines `m` into one direction mask and out of the other keeps the two apart. -/
theorem oneDirection_update {p o m : Word} (h : p &&& o = 0) : (p ||| m) &&& (o &&& ~~~m) = 0 := by
  refine BitVec.eq_of_getLsbD_eq fun i hi => ?_
  have hbit := congrArg (fun w => w.getLsbD i) h
  simp only [BitVec.getLsbD_and, BitVec.getLsbD_or, BitVec.getLsbD_not, hi, decide_true, Bool.true_and] at hbit ⊢
  cases hm : m.getLsbD i
  · simpa using hbit
  · simp

theorem inv_lineDir {mask : Word} {dir : LineDir} {s : State} (h : Inv s) (hm : ownLines s.cfg mask = true) :
    Inv (lineDir mask dir s) := by
  have hpp := ownLines_iff.2 h.pushPullLines
  have hod := ownLines_iff.2 h.openDrainLines
  have hppOut := ownLines_iff.1 (ownLines_and (m' := ~~~mask) hpp)
  have hodOut := ownLines_iff.1 (ownLines_and (m' := ~~~mask) hod)
  cases dir with
  | input =>
    have hone : (s.gpioPP &&& ~~~mask) &&& (s.gpioOD &&& ~~~mask) = 0 := by
      calc _ = (s.gpioPP &&& s.gpioOD) &&& (~~~mask &&& ~~~mask) := by ac_rfl
        _ = 0 := by rw [h.oneDirection]; exact BitVec.zero_and
    exact { h with pushPullLines := hppOut, openDrainLines := hodOut, oneDirection := hone }
  | pushPull =>
    exact { h with pushPullLines := ownLines_iff.1 (ownLines_or.2 ⟨hpp, hm⟩), openDrainLines := hodOut
                   oneDirection := oneDirection_update h.oneDirection }
  | openDrain =>
    have hone : (s.gpioPP &&& ~~~mask) &&& (s.gpioOD ||| mask) = 0 :=
      (BitVec.and_comm _ _).trans (oneDirection_update ((BitVec.and_comm _ _).trans h.oneDirection))
    exact { h with pushPullLines := hppOut, openDrainLines := ownLines_iff.1 (ownLines_or.2 ⟨hod, hm⟩)
                   oneDirection := hone }

theorem inv_releaseHeld {s : State} (h : Inv s) : Inv (releaseHeld s.heldCs s) :=
  h.of_engine (sameControl_releaseHeld _ s)
    (engineOk_releaseHeld h.engineOk fun e he => hasSlot_of_ready (h.held e he))

theorem inv_processMsg {d : Slot} {m : Word} {held : Option Slot} {s t : State} (h : Inv s)
    (hheld : ∀ e, held = some e → s.ready e = true) (hp : processMsg d m held s = .ok t) : Inv t := by
  obtain ⟨hengine, hnew⟩ := engineOk_processMsg hp h.engineOk fun e he => hasSlot_of_ready (hheld e he)
  exact h.of_sameControl (processMsg_control hp) hengine hnew

/-! ### The host commands -/

theorem inv_raiseInResult {s : State} (h : Inv s) (e : ErrorKind) : Inv (raiseInResult e s) := { h with }

/-- A supported mode, for an existing slot of a constructed controller, may be put into the slot (R155, R182). -/
theorem inv_setDev {d : Slot} {v : Device} {s : State} (h : Inv s) (hmis : s.misconfigured = false)
    (hslot : s.cfg.hasSlot d = true) (hv : v.valid = true) (hbpw : v.bpw = 8) (hhz : v.maxSpeedHz ≠ 0)
    (hcpha : v.cpha = true → s.cfg.cpha1Supported = true) : Inv (setDev d v s) := by
  have hready : ∀ e, s.ready e = true → (setDev d v s).ready e = true := fun e => ready_setDev hv
  have hentry : ∀ e, s.entryOk e = true → (setDev d v s).entryOk e = true := fun e he => by
    unfold State.entryOk at he ⊢
    rw [Bool.and_eq_true] at he ⊢
    exact ⟨hready _ he.1, he.2⟩
  exact { h with
    devices := fun e he => by
      by_cases hed : e = d
      · rw [hed, dev_setDev_same]; exact ⟨hslot, hbpw, hhz, hcpha⟩
      · rw [dev_setDev_other v s hed] at he ⊢; exact h.devices e he
    queued := fun e hm => hentry e (h.queued e hm)
    held := fun e he => hready e (h.held e he)
    lastHeld := fun e he => hready e (h.lastHeld e he)
    owedHeld := fun e he => hready e (h.owedHeld e he)
    callerHeld := fun r e hr he => hready e (h.callerHeld r e hr he)
    current := fun e hi => hentry e (h.current e hi)
    noDevice := fun hm => absurd (hmis.symm.trans hm) Bool.false_ne_true }

/-- What REGDEV asks of the mode and the speed (R155, R182). -/
theorem modeUnsupported_eq_false {c : Config} {mode bpw : Byte} {hz : Word} :
    modeUnsupported c mode bpw hz = false ↔
      mode.extractLsb' 3 5 = 0 ∧ (mode.getLsbD 0 = true → c.cpha1Supported = true) ∧ bpw = 8 ∧ hz ≠ 0 := by
  unfold modeUnsupported
  simp only [Bool.or_eq_false_iff, decide_eq_false_iff_not, not_not, and_assoc]
  cases mode.getLsbD 0 <;> cases c.cpha1Supported <;> simp

theorem inv_registerDevice {d : Slot} {bpw mode : Byte} {hz : Word} {s : State} (h : Inv s)
    (hmis : s.misconfigured = false) (hslot : s.cfg.hasSlot d = true)
    (hmode : modeUnsupported s.cfg mode bpw hz = false) : Inv (registerDevice d mode hz s) := by
  obtain ⟨-, hcpha, -, hhz⟩ := modeUnsupported_eq_false.1 hmode
  have hset : Inv (setDev d (registered mode hz) s) := inv_setDev h hmis hslot rfl rfl hhz hcpha
  have hlevel : Inv (csTo d (!mode.getLsbD 2) (setDev d (registered mode hz) s)) :=
    hset.of_engine (sameControl_csTo ..) (engineOk_csTo hset.engineOk hslot _)
  have hdir : Inv (lineDir (bit (s.cfg.slot d).cs) .pushPull
      (csTo d (!mode.getLsbD 2) (setDev d (registered mode hz) s))) := by
    refine inv_lineDir hlevel ?_
    rw [(sameControl_csTo ..).cfg]
    exact ownLines_bit h.platform (wf_cs_lt h.platform hslot)
  exact { hdir with }

theorem inv_enqueue {e : Entry} {s : State} (h : Inv s) (he : s.entryOk e = true) : Inv (enqueue e s) :=
  { h with
    queued := fun q hq => by
      rcases List.mem_append.1 hq with hq | hq
      · exact h.queued q hq
      · exact List.mem_singleton.1 hq ▸ he
    awake := fun _ => rfl
    running := fun _ => rfl }

/-! ### The worker (R160, R161) -/

theorem inv_completeMsg {m : Word} {s t : State} (h : Inv s) (hc : completeMsg m s = .ok t) : Inv t := by
  obtain ⟨r, u, -, -, rfl, -, rfl⟩ := completeMsg_ok hc
  exact { h with }

theorem inv_writeBack {s : State} (h : Inv s) : Inv (writeBack s) := by
  rcases writeBack_eq s with ⟨held, hw, heq⟩ | ⟨-, heq⟩
  · have hidle : s.caller = .idle := h.caller_idle (by rw [hw]; nofun)
    rw [heq]
    exact { h with
      held := fun d hd => h.owedHeld d (hw.trans (congrArg _ hd))
      owedHeld := nofun
      current := nofun
      sequencer := by simp [hidle]
      oneAgent := .inl rfl
      running := fun hn => absurd rfl hn }
  · rw [heq]; exact h

/-- The entry a turn selects is one of the queue's and the rest stays in it; there is one unless the queue is empty
(R161). -/
theorem takeNext_cases (queue : List Entry) (held : Option Slot) :
    (queue = [] ∧ takeNext queue held = none) ∨
      ∃ e rest, takeNext queue held = some (e, rest) ∧ e ∈ queue ∧ rest ⊆ queue := by
  rcases List.eq_nil_or_concat queue with rfl | ⟨l, x, hl⟩
  · exact .inl ⟨rfl, by simp [takeNext]⟩
  · right
    have hpos : 0 < queue.length := by rw [hl]; simp
    have hlt : select queue held < queue.length := by
      unfold select
      cases held with
      | none => exact hpos
      | some d =>
        simp only
        cases hf : queue.findIdx? (fun q => q.dev == d) with
        | none => exact hpos
        | some i => exact (List.findIdx?_eq_some_iff_getElem.1 hf).1
    refine ⟨queue[select queue held], queue.eraseIdx (select queue held), ?_, List.getElem_mem hlt,
      (List.eraseIdx_sublist queue _).subset⟩
    unfold takeNext
    rw [List.getElem?_eq_getElem hlt]

/-- The locked region of an awake worker keeps the invariant. -/
theorem inv_lockRegion {s : State} (h : Inv s) (hb : s.busy = true) : Inv (lockRegion s) := by
  have hw := inv_writeBack h
  have hbusy : (writeBack s).busy = true := by
    rcases writeBack_eq s with ⟨held, -, heq⟩ | ⟨-, heq⟩ <;> rw [heq] <;> exact hb
  rcases lockRegion_cases s with ⟨-, heq⟩ | ⟨hi, htake, heq⟩ | ⟨e, rest, hi, htake, heq⟩ <;> rw [heq]
  · exact hw
  · obtain ⟨hstart, -⟩ := hw.idle_of_inflight_none hi
    have hempty : (writeBack s).queue = [] := by
      rcases takeNext_cases (writeBack s).queue (writeBack s).heldCs with ⟨hq, -⟩ | ⟨e, rest, hsome, -⟩
      · exact hq
      · rw [htake] at hsome; cases hsome
    exact { hw with
      awake := fun hq => absurd hempty hq
      running := fun hn => absurd hstart hn }
  · obtain ⟨-, hidle⟩ := hw.idle_of_inflight_none hi
    obtain ⟨hmem, hsub⟩ : e ∈ (writeBack s).queue ∧ rest ⊆ (writeBack s).queue := by
      rcases takeNext_cases (writeBack s).queue (writeBack s).heldCs with ⟨-, hnone⟩ | ⟨e', rest', hsome, hmem, hsub⟩
      · rw [htake] at hnone; cases hnone
      · rw [htake] at hsome; cases hsome; exact ⟨hmem, hsub⟩
    exact { hw with
      queued := fun q hq => hw.queued q (hsub hq)
      awake := fun _ => hbusy
      current := fun q hq => by cases hq; exact hw.queued e hmem
      owedHeld := nofun
      sequencer := by simp
      oneAgent := .inr hidle
      running := fun _ => hbusy }

theorem inv_serve {e : Entry} {s t : State} (h : Inv s) (hw : s.worker = .serving) (ht : serve e s = .ok t) :
    Inv t := by
  obtain ⟨u, v, hu, hv, rfl⟩ := serve_ok ht
  have hInv : Inv v := inv_completeMsg (inv_processMsg h h.held hu) hv
  have hworker : v.worker = .serving :=
    (sameControl_completeMsg hv).worker.trans ((processMsg_control hu).worker.trans hw)
  have hseq : v.seq = u.seq := (sameControl_completeMsg hv).seq
  have hpast : v.worker ≠ .atStart := by rw [hworker]; nofun
  exact { hInv with
    owedHeld := fun d hd => hInv.lastHeld d (hseq ▸ Worker.owes.inj hd)
    sequencer := ⟨fun _ => .inl nofun, fun _ => hInv.sequencer.2 (.inl hpast)⟩
    oneAgent := .inr (hInv.caller_idle hpast)
    running := fun _ => hInv.running hpast }

theorem inv_workerTurn {s t : State} (h : Inv s) (hb : s.busy = true) (ht : workerTurn s = .ok t) : Inv t := by
  have hlock := inv_lockRegion h hb
  rcases serveCurrent_ok ht with ⟨e, hw, -, hserve⟩ | heq
  · exact inv_serve hlock hw hserve
  · rw [heq]; exact hlock

theorem inv_workerLock {s : State} (h : Inv s) : Inv (workerLock s) := by
  unfold workerLock
  split
  · rename_i hb; exact inv_lockRegion h hb
  · exact h

/-! ### The atomic caller (R164) -/

theorem inv_admission {d : Slot} {m : Word} {s t : State} (h : Inv s) (ht : admission d m s = .ok t) : Inv t := by
  obtain ⟨hready, haddr, hi, rfl⟩ := admission_ok.1 ht
  obtain ⟨hstart, -⟩ := h.idle_of_inflight_none hi
  exact { h with
    callerHeld := nofun
    current := fun e he => by cases he; exact Bool.and_eq_true_iff.2 ⟨hready, haddr⟩
    sequencer := by simp [enterAtomic]
    oneAgent := .inl hstart }

theorem inv_processAtomic {hazard : Bool} {e : Entry} {s t : State} (h : Inv s) (hc : s.caller = .admitted hazard)
    (ht : processAtomic hazard e s = .ok t) : Inv t := by
  obtain ⟨u, hu, rfl⟩ := processAtomic_ok ht
  obtain ⟨hInv, hcaller⟩ : Inv u ∧ u.caller = .admitted hazard := by
    cases hazard
    · exact ⟨inv_processMsg h h.held hu, (processMsg_control hu).caller.trans hc⟩
    · have hp : processMsg e.dev e.msg none (releaseHeld s.heldCs s) = .ok u := hu
      exact ⟨inv_processMsg (held := none) (inv_releaseHeld h) nofun hp,
        (processMsg_control hp).caller.trans ((sameControl_releaseHeld _ s).caller.trans hc)⟩
  have hpast : u.caller ≠ .idle := by rw [hcaller]; nofun
  exact { hInv with
    callerHeld := fun r d hr hd => hInv.lastHeld d (Caller.processed.inj hr ▸ hd)
    sequencer := ⟨fun _ => .inr nofun, fun _ => hInv.sequencer.2 (.inr hpast)⟩
    oneAgent := .inl (hInv.worker_atStart hpast) }

theorem inv_writeBackAtomic {r : SeqResult} {s : State} (h : Inv s) (hc : s.caller = .processed r) :
    Inv (writeBackAtomic r s) := by
  have hstart : s.worker = .atStart := h.worker_atStart (by rw [hc]; nofun)
  obtain ⟨raced, heq⟩ := writeBackAtomic_eq r s
  rw [heq]
  exact { h with
    held := fun d hd => h.callerHeld r d hc hd
    callerHeld := nofun
    current := nofun
    sequencer := by simp [hstart]
    oneAgent := .inl hstart }

theorem inv_callerMove {s t : State} (h : Inv s) (ht : callerMove s = .ok t) : Inv t := by
  rcases callerMove_ok ht with ⟨hazard, e, hc, -, hp⟩ | ⟨r, hc, rfl⟩ | rfl
  · exact inv_processAtomic h hc hp
  · exact inv_writeBackAtomic h hc
  · exact h

theorem inv_writeAnswer {s : State} (h : Inv s) (i : Nat) : Inv (writeAnswer i s) := by
  obtain ⟨result, answers, heq⟩ := writeAnswer_eq i s
  rw [heq]
  exact { h with }

theorem inv_runAtomic {d : Slot} {m : Word} {s t : State} (h : Inv s) (ht : runAtomic d m s = .ok t) : Inv t := by
  obtain ⟨s1, s2, s3, h1, h2, h3, rfl⟩ := runAtomic_ok ht
  exact inv_writeAnswer (inv_callerMove (inv_callerMove (inv_admission h h1) h2) h3) _

/-! ### Operations -/

/-- Every operation keeps the invariant. -/
theorem inv_exec {i : Instr} {s t : State} (h : Inv s) (ht : exec i s = .next t) : Inv t := by
  cases i with
  | regdev dev bpw mode hz =>
    rcases execRegdev_next ht with ⟨e, rfl⟩ | ⟨hmis, hslot, -, hmode, rfl⟩
    · exact inv_raiseInResult h e
    · exact inv_registerDevice h hmis hslot hmode
  | submit dev msg =>
    rcases execSubmit_next ht with ⟨e, rfl⟩ | ⟨hready, haddr, rfl⟩
    · exact inv_raiseInResult h e
    · exact inv_enqueue h (Bool.and_eq_true_iff.2 ⟨hready, haddr⟩)
  | submitAtomic dev msg =>
    rcases execSubmitAtomic_next ht with ⟨e, rfl⟩ | hrun
    · exact inv_raiseInResult h e
    · exact inv_runAtomic h hrun
  | gpioSet high low =>
    obtain ⟨hown, rfl⟩ := execGpioSet_next ht
    exact inv_lineSet h (ownLines_or.1 hown).1
  | gpioGet => cases ht; exact { h with }
  | gpioDir direction mask =>
    obtain ⟨hown, dir, rfl⟩ := execGpioDir_next ht
    exact inv_lineDir h hown
  | delay ns =>
    cases ht
    rw [waitNs_eq]
    exact { h with }
  | shiftByte cpha cpol wantRx tx =>
    obtain ⟨ret, rfl⟩ := execShiftByte_next ht
    have hunit := h.of_engine (sameUnit_shiftByte cpha cpol wantRx tx s).toSameControl
      (engineOk_shiftByte cpha cpol wantRx tx h.engineOk)
    exact { hunit with }
  | shiftWord cs cpol count tx =>
    obtain ⟨ret, rfl⟩ := execShiftWord_next ht
    have hunit := h.of_engine (sameUnit_shiftWord cs cpol count tx s).toSameControl
      (engineOk_shiftWord cs cpol count tx h.engineOk)
    exact { hunit with }
  | xfer dev desc =>
    obtain ⟨ret, rfl⟩ := execXfer_next ht
    have hxfer := h.of_engine (sameTransfer_xfer dev (transferAt desc s) s).toSameControl
      (engineOk_xfer dev (transferAt desc s) h.engineOk)
    exact { hxfer with }
  | setSpeed hz =>
    have hok : setSpeedChecked hz s = .ok t := outcome_eq_next.1 ht
    have hsame : SameControl s t := setSpeedChecked_ok hok ▸ sameControl_setSpeed hz s
    exact h.of_engine hsame (engineOk_setSpeedChecked h.engineOk hok)
  | csAssert dev =>
    obtain ⟨hready, rfl⟩ := guarded_slotReady_next ht
    exact h.of_engine (sameControl_csAssert dev s) (engineOk_csAssert h.engineOk (hasSlot_of_ready hready))
  | csDeassert dev =>
    obtain ⟨hready, rfl⟩ := guarded_slotReady_next ht
    exact h.of_engine (sameControl_csDeassert dev s) (engineOk_csDeassert h.engineOk (hasSlot_of_ready hready))
  | processMsg dev msg => exact inv_processMsg h h.held (outcome_eq_next.1 ht)
  | workerStep =>
    rcases execWorkerStep_next ht with ⟨hb, hturn⟩ | ⟨-, rfl⟩
    · exact inv_workerTurn h hb hturn
    · exact h
  | complete dev msg => exact inv_completeMsg h (execComplete_next ht)

/-! ### Reset (R210, R212) -/

/-- The state of reset before construction meets the invariant. -/
theorem inv_powerOn {c : Config} (hc : c.wf = true) : Inv (State.powerOn c) := by
  have hdev : ∀ d, ((State.powerOn c).dev d).valid = false := fun d => congrArg Device.valid (dev_powerOn c d)
  constructor
  case platform => exact hc
  case memory => rfl
  case latchLines => exact BitVec.zero_and
  case pushPullLines => exact BitVec.zero_and
  case openDrainLines => exact BitVec.zero_and
  case oneDirection => exact BitVec.zero_and
  case devices => exact fun d hd => absurd ((hdev d).symm.trans hd) Bool.false_ne_true
  case queued => exact nofun
  case awake => exact fun hq => absurd rfl hq
  case held => exact nofun
  case lastHeld => exact nofun
  case owedHeld => exact nofun
  case callerHeld => exact nofun
  case current => exact nofun
  case sequencer => simp [State.powerOn]
  case oneAgent => exact .inl rfl
  case running => exact fun hn => absurd rfl hn
  case mark => rfl
  case noDevice => exact fun _ => hdev
  case unitDone => rfl
  case speed => rfl

theorem inv_construction {s : State} (h : Inv s) : Inv (construction s) := by
  unfold construction
  split
  · obtain ⟨hlow, hpp⟩ := ownLines_construction h.platform
    have hlatched : Inv (lineSet s.cfg.allAuxLow s.cfg.resetLow s) := inv_lineSet h hlow
    have hcfg : (lineSet s.cfg.allAuxLow s.cfg.resetLow s).cfg = s.cfg := (sameControl_lineSet ..).cfg
    have houtputs : Inv (lineDir s.cfg.resetPP .pushPull (lineSet s.cfg.allAuxLow s.cfg.resetLow s)) :=
      inv_lineDir hlatched (by rw [hcfg]; exact hpp)
    refine inv_lineDir houtputs ?_
    rw [(extends_lineDir ..).cfg, hcfg]
    exact ownLines_bit h.platform (wf_bus_lt h.platform).2.2
  · exact h

theorem inv_resetNow {s : State} (hc : s.cfg.wf = true) (hm : s.mem.wf = true) : Inv (resetNow s) :=
  inv_construction { inv_powerOn hc with memory := hm }

theorem inv_resetWithin {s : State} (h : Inv s) (n : Nat) (t : State) : Inv (resetWithin n s t) := by
  obtain ⟨done, -, heq⟩ := resetWithin_eq n s t
  rw [heq]
  exact inv_resetNow h.platform (foldl_replayEvent_wf done s.mem h.memory)

/-! ### Moves (R8, R22, R57, R65) -/

theorem inv_issue {tr : Triple} {s t : State} (h : Inv s) (ht : issue tr s = .next t) : Inv t := by
  unfold issue at ht
  split at ht
  · cases ht
  · split at ht
    · have harg : Inv { s with arg0 := tr.arg0 } := { h with }
      exact inv_exec harg ht
    · exact inv_exec h ht

theorem inv_beginCommand {header arg0 : Word} {s t : State} (h : Inv s)
    (ht : beginCommand header arg0 s = .next t) : Inv t := by
  unfold beginCommand at ht
  split at ht
  · have harg : Inv { s with arg0 := arg0 } := { h with }
    rcases beginAtomic_next ht with ⟨e, rfl⟩ | hadm
    · exact inv_raiseInResult harg e
    · exact inv_admission harg hadm
  · exact inv_issue h ht

theorem inv_writeCmd {w : Word} {s t : State} (h : Inv s) (ht : writeCmd w s = .next t) : Inv t := by
  unfold writeCmd at ht
  split at ht
  · cases ht
  · exact inv_exec h ht

theorem inv_writeReg {off v : Word} {width : Nat} {s t : State} (h : Inv s) (ht : writeReg off width v s = .next t) :
    Inv t := by
  unfold writeReg at ht
  split at ht
  · cases ht
  · split at ht
    · exact inv_writeCmd h ht
    · split at ht
      · cases ht; exact { h with }
      · split at ht
        · cases ht; exact { h with }
        · split at ht
          · cases ht; exact { h with }
          · cases ht; exact h

theorem inv_readReg {off : Word} {width : Nat} {s t : State} (h : Inv s) (ht : readReg off width s = .next t) :
    Inv t := by
  unfold readReg at ht
  split at ht
  · cases ht
  · split at ht <;> cases ht <;> exact { h with }

/-- Every move of every agent keeps the invariant. -/
theorem inv_act {a : Action} {s t : State} (h : Inv s) (ht : act a s = .next t) : Inv t := by
  cases a with
  | issue header arg0 arg1 => exact inv_issue h ht
  | begin header arg0 => exact inv_beginCommand h ht
  | caller => exact inv_callerMove h (outcome_eq_next.1 ht)
  | answer i => cases ht; exact inv_writeAnswer h i
  | writeReg offset width value => exact inv_writeReg h ht
  | readReg offset width => exact inv_readReg h ht
  | store addr value => cases ht; exact { h with memory := hostStore_wf addr value s h.memory }
  | worker => exact inv_exec (i := .workerStep) h ht
  | workerLock => cases ht; exact inv_workerLock h
  | reset => cases ht; exact inv_resetNow h.platform h.memory
  | resetDuring move n =>
    simp only [act] at ht
    split at ht
    · cases ht; exact inv_resetWithin h n _
    · cases ht
    · cases ht

/-- Settles O56: a step is a move, on the state without the head of its agenda, and every move keeps the invariant. -/
theorem stepKeepsInvariant : Obligations.StepKeepsInvariant := by
  intro s t h ht
  cases ha : s.agenda with
  | nil => exact inv_act h ((step_of_agenda_nil ha).symm.trans ht)
  | cons a rest =>
    have hrest : Inv { s with agenda := rest } := { h with }
    exact inv_act hrest ((step_of_agenda_cons ha).symm.trans ht)

end Sys2Proof.Machine
end

section
/-! SUPPORT. Which operations write the device table and the completion FIFO, and what a worker turn does
(spec/10_state.md R20, R30, spec/44_queue_dispatcher.md R155, R160 to R164). -/

namespace Sys2Proof.Machine

/-! ### Operations that write neither table (R20, R30) -/

/-- `t` has the device table and the completion FIFO of `s`. -/
structure SameTables (s t : State) : Prop where
  devs : t.devs = s.devs
  comp : t.comp = s.comp

theorem SameTables.refl (s : State) : SameTables s s := ⟨rfl, rfl⟩

theorem SameTables.trans {s t u : State} (h : SameTables s t) (k : SameTables t u) : SameTables s u :=
  ⟨k.devs.trans h.devs, k.comp.trans h.comp⟩

theorem SameControl.tables {s t : State} (h : SameControl s t) : SameTables s t := ⟨h.devs, h.comp⟩

theorem sameTables_processMsg {d : Slot} {m : Word} {held : Option Slot} {s t : State}
    (h : processMsg d m held s = .ok t) : SameTables s t := ⟨(processMsg_control h).devs, (processMsg_control h).comp⟩

theorem sameTables_lineDir (mask : Word) (dir : LineDir) (s : State) : SameTables s (lineDir mask dir s) := by
  cases dir <;> exact ⟨rfl, rfl⟩

theorem sameTables_callerMove {s t : State} (h : callerMove s = .ok t) : SameTables s t := by
  rcases callerMove_ok h with ⟨hazard, e, -, -, hp⟩ | ⟨r, -, rfl⟩ | rfl
  · obtain ⟨u, hu, rfl⟩ := processAtomic_ok hp
    have hrelease : SameTables s (if hazard then releaseHeld s.heldCs s else s) := by
      split
      · exact (sameControl_releaseHeld _ s).tables
      · exact .refl s
    have hprocess := hrelease.trans (sameTables_processMsg hu)
    exact ⟨hprocess.devs, hprocess.comp⟩
  · obtain ⟨raced, heq⟩ := writeBackAtomic_eq r s
    rw [heq]; exact ⟨rfl, rfl⟩
  · exact .refl _

theorem sameTables_runAtomic {d : Slot} {m : Word} {s t : State} (h : runAtomic d m s = .ok t) : SameTables s t := by
  obtain ⟨s1, s2, s3, h1, h2, h3, rfl⟩ := runAtomic_ok h
  obtain ⟨-, -, -, rfl⟩ := admission_ok.1 h1
  obtain ⟨result, answers, heq⟩ := writeAnswer_eq s.answers.length s3
  have hadmitted : SameTables s (enterAtomic d m s) := ⟨rfl, rfl⟩
  have hmoves := (hadmitted.trans (sameTables_callerMove h2)).trans (sameTables_callerMove h3)
  rw [heq]
  exact ⟨hmoves.devs, hmoves.comp⟩

/-! ### The worker's turn (R160, R162) -/

theorem sameTables_lockRegion (s : State) : SameTables s (lockRegion s) := by
  have hw : SameTables s (writeBack s) := by
    rcases writeBack_eq s with ⟨h, -, heq⟩ | ⟨-, heq⟩ <;> rw [heq] <;> exact ⟨rfl, rfl⟩
  rcases lockRegion_cases s with ⟨-, heq⟩ | ⟨-, -, heq⟩ | ⟨e, rest, -, -, heq⟩ <;>
    rw [heq] <;> exact ⟨hw.devs, hw.comp⟩

/-- The record COMPLETE appends, and its event at the end of the trace (R162). -/
theorem completeMsg_record {m : Word} {s t : State} (h : completeMsg m s = .ok t) :
    ∃ r : CompRec, t.comp = s.comp ++ [r] ∧ r.msg = m ∧ r.status = s.seq.status ∧ r.actualLength = s.seq.actual ∧
      t.trace.getLast? = some (.complete r) := by
  obtain ⟨r, u, -, -, rfl, rfl, rfl⟩ := completeMsg_ok h
  exact ⟨_, rfl, rfl, rfl, rfl, by rw [emit_trace, List.getLast?_concat]⟩

/-- Serving a Message writes the result of PROCESS_MSG, one record, the marks and the worker's place, and none of the
other fields of `SameControl` (R160, R162). -/
theorem serve_effect {e : Entry} {s t : State} (h : serve e s = .ok t) :
    ∃ r : CompRec,
      SameControl { s with seq := t.seq, comp := s.comp ++ [r], raced := t.raced, worker := .owes t.seq.held } t ∧
      r.msg = e.msg ∧ r.status = t.seq.status ∧ r.actualLength = t.seq.actual ∧
      t.trace.getLast? = some (.complete r) := by
  obtain ⟨u, v, hu, hv, rfl⟩ := serve_ok h
  have hprocess := processMsg_control hu
  have hcomplete := sameControl_completeMsg hv
  obtain ⟨r, hcomp, hmsg, hstatus, hactual, hlast⟩ := completeMsg_record hv
  have hseq : v.seq = u.seq := hcomplete.seq
  refine ⟨r, ?_, hmsg, hstatus.trans (by rw [hseq]), hactual.trans (by rw [hseq]), hlast⟩
  exact {
    cfg := hcomplete.cfg.trans hprocess.cfg
    raced := rfl
    agenda := hcomplete.agenda.trans hprocess.agenda
    heldCs := hcomplete.heldCs.trans hprocess.heldCs
    inflight := hcomplete.inflight.trans hprocess.inflight
    queue := hcomplete.queue.trans hprocess.queue
    busy := hcomplete.busy.trans hprocess.busy
    worker := congrArg (fun q => Worker.owes q.held) hseq.symm
    caller := hcomplete.caller.trans hprocess.caller
    answers := hcomplete.answers.trans hprocess.answers
    seq := rfl
    ret := hcomplete.ret.trans hprocess.ret
    devs := hcomplete.devs.trans hprocess.devs
    arg0 := hcomplete.arg0.trans hprocess.arg0
    result := hcomplete.result.trans hprocess.result
    compIe := hcomplete.compIe.trans hprocess.compIe
    comp := hcomp.trans (congrArg (· ++ [r]) hprocess.comp)
    busData := hcomplete.busData.trans hprocess.busData
    misconfigured := hcomplete.misconfigured.trans hprocess.misconfigured
    gpioPP := hcomplete.gpioPP.trans hprocess.gpioPP
    gpioOD := hcomplete.gpioOD.trans hprocess.gpioOD }

/-! ### Every operation -/

/-- Every operation leaves both tables alone, or is an accepted REGDEV, or is a worker turn or COMPLETE that appends
one record (R20, R30, R155, R164). -/
theorem exec_tables {i : Instr} {s t : State} (h : exec i s = .next t) :
    SameTables s t ∨
      (∃ d bpw mode hz, i = .regdev d bpw mode hz ∧ (s.dev d).valid = false ∧ t = registerDevice d mode hz s) ∨
      ((i = .workerStep ∨ ∃ d m, i = .complete d m) ∧ t.devs = s.devs ∧ ∃ r, t.comp = s.comp ++ [r]) := by
  cases i with
  | regdev dev bpw mode hz =>
    rcases execRegdev_next h with ⟨e, rfl⟩ | ⟨-, -, hvalid, -, rfl⟩
    · exact .inl ⟨rfl, rfl⟩
    · exact .inr (.inl ⟨dev, bpw, mode, hz, rfl, hvalid, rfl⟩)
  | submit dev msg =>
    rcases execSubmit_next h with ⟨e, rfl⟩ | ⟨-, -, rfl⟩ <;> exact .inl ⟨rfl, rfl⟩
  | submitAtomic dev msg =>
    rcases execSubmitAtomic_next h with ⟨e, rfl⟩ | hrun
    · exact .inl ⟨rfl, rfl⟩
    · exact .inl (sameTables_runAtomic hrun)
  | gpioSet high low => rw [(execGpioSet_next h).2]; exact .inl (sameControl_lineSet high low s).tables
  | gpioGet => cases h; exact .inl ⟨rfl, rfl⟩
  | gpioDir direction mask =>
    obtain ⟨-, dir, rfl⟩ := execGpioDir_next h
    exact .inl (sameTables_lineDir mask dir s)
  | delay ns => cases h; exact .inl (sameControl_waitNs ns s).tables
  | shiftByte cpha cpol wantRx tx =>
    obtain ⟨ret, rfl⟩ := execShiftByte_next h
    have hunit := (sameUnit_shiftByte cpha cpol wantRx tx s).tables
    exact .inl ⟨hunit.devs, hunit.comp⟩
  | shiftWord cs cpol count tx =>
    obtain ⟨ret, rfl⟩ := execShiftWord_next h
    have hunit := (sameUnit_shiftWord cs cpol count tx s).tables
    exact .inl ⟨hunit.devs, hunit.comp⟩
  | xfer dev desc =>
    obtain ⟨ret, rfl⟩ := execXfer_next h
    have hxfer := (sameTransfer_xfer dev (transferAt desc s) s).tables
    exact .inl ⟨hxfer.devs, hxfer.comp⟩
  | setSpeed hz => rw [setSpeedChecked_ok (outcome_eq_next.1 h)]; exact .inl ⟨rfl, rfl⟩
  | csAssert dev => rw [guarded_eq_next h]; exact .inl (sameControl_csAssert dev s).tables
  | csDeassert dev => rw [guarded_eq_next h]; exact .inl (sameControl_csDeassert dev s).tables
  | processMsg dev msg => exact .inl (sameTables_processMsg (outcome_eq_next.1 h))
  | workerStep =>
    rcases execWorkerStep_next h with ⟨-, hturn⟩ | ⟨-, rfl⟩
    · have hlock := sameTables_lockRegion s
      rcases serveCurrent_ok hturn with ⟨e, -, -, hserve⟩ | heq
      · obtain ⟨r, hsame, -⟩ := serve_effect hserve
        exact .inr (.inr ⟨.inl rfl, hsame.devs.trans hlock.devs, r,
          hsame.comp.trans (congrArg (· ++ [r]) hlock.comp)⟩)
      · rw [heq]; exact .inl hlock
    · exact .inl (.refl _)
  | complete dev msg =>
    have hcomplete := execComplete_next h
    obtain ⟨r, hcomp, -⟩ := completeMsg_record hcomplete
    exact .inr (.inr ⟨.inr ⟨dev, msg, rfl⟩, (sameControl_completeMsg hcomplete).devs, r, hcomp⟩)

/-- The device table after an accepted REGDEV: its own slot is written, no other (R155). -/
theorem dev_registerDevice (d e : Slot) (mode : Byte) (hz : Word) (s : State) :
    (registerDevice d mode hz s).dev e = if e = d then registered mode hz else s.dev e := by
  have hdevs : (registerDevice d mode hz s).dev e = (setDev d (registered mode hz) s).dev e :=
    (sameControl_csTo d (!mode.getLsbD 2) (setDev d (registered mode hz) s)).dev e
  rw [hdevs]
  split
  · rename_i he; rw [he, dev_setDev_same]
  · rename_i he; exact dev_setDev_other _ s he

/-- Settles O58: of the three kinds of operation only REGDEV writes the device table, and that in its own slot. -/
theorem onlyRegdevWritesSlots : Obligations.OnlyRegdevWritesSlots := by
  intro i s t d h hne
  have hdevs : t.devs ≠ s.devs := fun he => hne (by unfold State.dev; simp only [he])
  rcases exec_tables h with hsame | ⟨e, bpw, mode, hz, rfl, hvalid, rfl⟩ | ⟨-, hsame, -⟩
  · exact absurd hsame.devs hdevs
  · rw [dev_registerDevice] at hne ⊢
    by_cases hd : d = e
    · subst hd
      exact ⟨hvalid, by rw [if_pos rfl]; rfl, bpw, mode, hz, rfl⟩
    · exact absurd (if_neg hd) hne
  · exact absurd hsame hdevs

/-- Settles O59: of the three kinds of operation only a worker turn and COMPLETE write the completion FIFO. -/
theorem onlyCompletionAppends : Obligations.OnlyCompletionAppends := by
  intro i s t h
  rcases exec_tables h with hsame | ⟨d, bpw, mode, hz, rfl, -, rfl⟩ | ⟨hi, -, hr⟩
  · exact .inl hsame.comp
  · exact .inl (sameControl_csTo d (!mode.getLsbD 2) (setDev d (registered mode hz) s)).comp
  · exact .inr ⟨hr, hi⟩

/-! ### A turn that takes a Message (R160) -/

/-- The state after a locked region that took the entry `e` and left `rest` in the queue (R160). -/
def taken (e : Entry) (rest : List Entry) (s : State) : State :=
  { writeBack s with queue := rest, inflight := some e, worker := .serving }

/-- Taking a Message writes `held_cs` as the write-back does, the queue, the sequencer and the worker's place only. -/
theorem taken_eq (e : Entry) (rest : List Entry) (s : State) :
    taken e rest s =
      { s with heldCs := (writeBack s).heldCs, queue := rest, inflight := some e, worker := .serving } := by
  unfold taken
  rcases writeBack_eq s with ⟨h, -, heq⟩ | ⟨-, heq⟩ <;> rw [heq]

theorem taken_busy (e : Entry) (rest : List Entry) (s : State) : (taken e rest s).busy = s.busy := by rw [taken_eq]

/-- The locked region takes the selected entry from the queue into the sequencer, after the write-back. -/
theorem lockRegion_of_takeNext {s : State} {e : Entry} {rest : List Entry} (hi : (writeBack s).inflight = none)
    (htake : takeNext s.queue (writeBack s).heldCs = some (e, rest)) : lockRegion s = taken e rest s := by
  have hqueue : (writeBack s).queue = s.queue := by
    rcases writeBack_eq s with ⟨h, -, heq⟩ | ⟨-, heq⟩ <;> rw [heq]
  unfold lockRegion taken
  simp only [hi, hqueue, htake]

/-- A worker past its locked region finds its Message in the sequencer and takes no other. -/
theorem lockRegion_of_serving {s : State} {e : Entry} (hw : s.worker = .serving) (hi : s.inflight = some e) :
    lockRegion s = s := by
  have hback : writeBack s = s := by unfold writeBack; rw [hw]
  unfold lockRegion
  simp only [hback, hi]

/-- A turn of an awake worker is its locked region and then the rest. -/
theorem exec_workerStep_of_busy {s : State} (hb : s.busy = true) :
    exec .workerStep s = outcome (serveCurrent (lockRegion s)) := if_pos hb

/-- What is left of a turn past its locked region serves the Message in the sequencer. -/
theorem exec_workerStep_of_serving {s : State} {e : Entry} (hb : s.busy = true) (hw : s.worker = .serving)
    (hi : s.inflight = some e) : exec .workerStep s = outcome (serve e s) := by
  rw [exec_workerStep_of_busy hb, lockRegion_of_serving hw hi]
  unfold serveCurrent
  rw [hw, hi]

/-- A whole turn goes on from the state its locked region leaves. -/
theorem exec_workerStep_of_takeNext {s : State} {e : Entry} {rest : List Entry} (hb : s.busy = true)
    (hi : (writeBack s).inflight = none) (htake : takeNext s.queue (writeBack s).heldCs = some (e, rest)) :
    exec .workerStep s = exec .workerStep (taken e rest s) := by
  rw [exec_workerStep_of_busy hb, lockRegion_of_takeNext hi htake,
    exec_workerStep_of_busy ((taken_busy e rest s).trans hb), lockRegion_of_serving rfl rfl]

/-- Settles O41: the locked region is computed from the selected entry; the rest is `serve`, whose effect `serve_effect`
says; a whole turn is the rest from the state the locked region leaves. -/
theorem turnServesOneMessage : Obligations.TurnServesOneMessage := by
  refine ⟨fun s e rest hb hi htake => ⟨?_, exec_workerStep_of_takeNext hb hi htake⟩, ?_, ?_⟩
  · exact congrArg Host.Outcome.next ((if_pos hb).trans (lockRegion_of_takeNext hi htake))
  · intro s t e hb hw hi ht
    rw [exec_workerStep_of_serving hb hw hi] at ht
    obtain ⟨r, hsame, hmsg, hstatus, hactual, hlast⟩ := serve_effect (outcome_eq_next.1 ht)
    exact ⟨hsame.inflight.trans hi, hsame.queue, hsame.busy.trans hb, hsame.heldCs, hsame.worker,
      ⟨r, hsame.comp, hmsg, hstatus, hactual, hlast⟩, hsame.devs, hsame.result, hsame.arg0, hsame.compIe,
      hsame.gpioPP, hsame.gpioOD, hsame.cfg, hsame.misconfigured, hsame.caller, hsame.answers⟩
  · intro s t e rest hb hi htake ht
    rw [exec_workerStep_of_takeNext hb hi htake,
      exec_workerStep_of_serving ((taken_busy e rest s).trans hb) rfl rfl] at ht
    obtain ⟨r, hsame, hmsg, hstatus, hactual, hlast⟩ := serve_effect (outcome_eq_next.1 ht)
    rw [taken_eq] at hsame
    exact ⟨hsame.inflight, hsame.queue, hsame.busy.trans hb, hsame.heldCs, hsame.worker,
      ⟨r, hsame.comp, hmsg, hstatus, hactual, hlast⟩, hsame.devs, hsame.result, hsame.arg0, hsame.compIe,
      hsame.gpioPP, hsame.gpioOD, hsame.cfg, hsame.misconfigured⟩

end Sys2Proof.Machine
end

section
/-! SUPPORT. The direction of a line after GPIO_DIR, an accepted REGDEV, and the table of construction
(spec/40_gpio_lines.md R94, spec/44_queue_dispatcher.md R155, spec/10_state.md R35, spec/70_reset_and_hazards.md
R210). -/

namespace Sys2Proof.Machine

/-! ### Directions (R11, R94) -/

/-- GPIO_DIR gives the lines of its mask its direction, the others keep theirs. -/
theorem dirOf_lineDir (mask : Word) (dir : LineDir) (s : State) {n : Nat} (hn : n < 32) :
    (lineDir mask dir s).dirOf n = if mask.getLsbD n then dir else s.dirOf n := by
  cases dir <;> cases hm : mask.getLsbD n <;>
    simp [lineDir, State.dirOf, emit, hm, hn, -BitVec.getLsbD_eq_getElem]

theorem dirOf_eq_of_masks {s t : State} (hpp : t.gpioPP = s.gpioPP) (hod : t.gpioOD = s.gpioOD) (n : Nat) :
    t.dirOf n = s.dirOf n := by
  unfold State.dirOf
  rw [hpp, hod]

/-! ### REGDEV (R155) -/

/-- REGDEV of a supported mode on an existing, unregistered slot of a constructed controller registers it. -/
theorem execRegdev_of_supported {d : Slot} {bpw mode : Byte} {hz : Word} {s : State} (hmis : s.misconfigured = false)
    (hslot : s.cfg.hasSlot d = true) (hvalid : (s.dev d).valid = false)
    (hmode : modeUnsupported s.cfg mode bpw hz = false) :
    execRegdev d bpw mode hz s = .next (registerDevice d mode hz s) := by
  unfold execRegdev
  simp [hmis, hslot, hvalid, hmode]

/-- All an accepted REGDEV writes: the slot, its line's latch and direction, two events, the handle. -/
theorem registerDevice_eq (d : Slot) (mode : Byte) (hz : Word) (s : State) :
    registerDevice d mode hz s =
      { s with
        devs := (setDev d (registered mode hz) s).devs
        gpioOut := lineOut (s.cfg.slot d).cs (!mode.getLsbD 2) s.gpioOut
        gpioPP := s.gpioPP ||| bit (s.cfg.slot d).cs
        gpioOD := s.gpioOD &&& ~~~bit (s.cfg.slot d).cs
        trace := s.trace ++ [levelEvent (s.cfg.slot d).cs (!mode.getLsbD 2), .lineDir (bit (s.cfg.slot d).cs) .pushPull]
        result := d.setWidth 32 } := by
  unfold registerDevice csTo
  rw [lineTo_eq]
  simp [setDev, setResult, lineDir, emit]

/-- An accepted REGDEV makes its line push-pull and leaves the other directions. -/
theorem dirOf_registerDevice (d : Slot) (mode : Byte) (hz : Word) (s : State) {n : Nat} (hn : n < 32) :
    (registerDevice d mode hz s).dirOf n = if (s.cfg.slot d).cs = n then .pushPull else s.dirOf n := by
  have hmasks : (registerDevice d mode hz s).dirOf n = (lineDir (bit (s.cfg.slot d).cs) .pushPull s).dirOf n := by
    refine dirOf_eq_of_masks ?_ ?_ n <;> rw [registerDevice_eq] <;> rfl
  rw [hmasks, dirOf_lineDir _ _ _ hn, getLsbD_bit _ _ hn]
  simp only [decide_eq_true_eq]

/-- Settles O34: the command is accepted, and the closed form of `registerDevice` says what it writes. -/
theorem regdevRegistersSlot : Obligations.RegdevRegistersSlot := by
  intro s d bpw mode hz hmis hslot hvalid hbits hcpha hbpw hhz
  have hmode : modeUnsupported s.cfg mode bpw hz = false := modeUnsupported_eq_false.2 ⟨hbits, hcpha, hbpw, hhz⟩
  have heq := registerDevice_eq d mode hz s
  have hout : (registerDevice d mode hz s).gpioOut = lineOut (s.cfg.slot d).cs (!mode.getLsbD 2) s.gpioOut := by
    rw [heq]
  refine ⟨_, execRegdev_of_supported hmis hslot hvalid hmode, ?slot, ?others, ?handle, ?events, ?line, ?lines, ?frame⟩
  case slot => exact (dev_registerDevice d d mode hz s).trans (if_pos rfl)
  case others => exact fun e he => (dev_registerDevice d e mode hz s).trans (if_neg he)
  case handle => rw [heq]
  case events => rw [heq]
  case line =>
    intro hwf
    have hcs : (s.cfg.slot d).cs < 32 := (Config.wf_cs hwf hslot).1
    refine ⟨?_, (dirOf_registerDevice d mode hz s hcs).trans (if_pos rfl)⟩
    have hcfg : (registerDevice d mode hz s).cfg = s.cfg := by rw [heq]
    unfold State.csActive
    rw [hcfg, hout, getLsbD_lineOut _ _ _ _ hcs, if_pos rfl, dev_registerDevice, if_pos rfl]
    show ((!mode.getLsbD 2) == mode.getLsbD 2) = false
    cases mode.getLsbD 2 <;> rfl
  case lines =>
    intro n hn hne
    rw [hout, getLsbD_lineOut _ _ _ _ hn, dirOf_registerDevice d mode hz s hn]
    exact ⟨if_neg hne, if_neg hne.symm⟩
  case frame => rw [heq]

/-! ### Masks joined over the slots (R210) -/

variable {c : Config}

/-- The masks of every slot joined, line by line. -/
theorem getLsbD_foldr_or (f : SlotConfig → Word) (i : Nat) : ∀ l : List SlotConfig,
    (l.foldr (fun p m => f p ||| m) 0).getLsbD i = true ↔ ∃ p ∈ l, (f p).getLsbD i = true
  | [] => by simp
  | p :: l => by
    rw [List.foldr_cons, BitVec.getLsbD_or, Bool.or_eq_true, getLsbD_foldr_or f i l]
    simp

/-- The lines of a slot's hooks. -/
def hookLines (p : SlotConfig) : Word := p.auxHigh ||| p.auxLow ||| p.strobe

theorem getLsbD_hookLines (p : SlotConfig) (i : Nat) :
    (hookLines p).getLsbD i = true ↔
      p.auxHigh.getLsbD i = true ∨ p.auxLow.getLsbD i = true ∨ p.strobe.getLsbD i = true := by
  unfold hookLines
  rw [BitVec.getLsbD_or, BitVec.getLsbD_or, Bool.or_eq_true, Bool.or_eq_true, or_assoc]

/-- Construction makes push-pull exactly SCK, MOSI and the hook lines (R210). -/
theorem getLsbD_resetPP {i : Nat} (hi : i < 32) :
    c.resetPP.getLsbD i = true ↔ c.sck = i ∨ c.mosi = i ∨ ∃ p ∈ c.slots, (hookLines p).getLsbD i = true := by
  unfold Config.resetPP Config.allAuxHigh Config.allAuxLow Config.allStrobe
  simp only [BitVec.getLsbD_or, Bool.or_eq_true, getLsbD_bit _ _ hi, getLsbD_foldr_or, decide_eq_true_eq,
    getLsbD_hookLines, and_or_left, exists_or, or_assoc]

/-- No hook of any slot names a bus line or a chip-select line. -/
theorem hookLines_of_signal (h : c.wf = true) {i : Nat} (hi : i < 32)
    (hsignal : i = c.sck ∨ i = c.mosi ∨ i = c.miso ∨ ∃ q ∈ c.slots, q.cs = i) {p : SlotConfig} (hp : p ∈ c.slots) :
    (hookLines p).getLsbD i = false := by
  obtain ⟨hhigh, hlow, hstrobe⟩ := (Config.wf_hooks h hp).2 i hi
    (by rcases hsignal with hs | hs | hs | hs <;> simp only [hs, true_or, or_true])
  rw [Bool.eq_false_iff, Ne, getLsbD_hookLines, hhigh, hlow, hstrobe]
  simp

/-- On a legal platform a line driven low by a hook that is off is no line of AUX_LOW (log 26). -/
theorem wf_senses (h : c.wf = true) : c.allAuxLow &&& (c.allAuxHigh ||| c.allStrobe) = 0 := by
  unfold Config.wf at h
  simp only [Bool.and_eq_true, decide_eq_true_eq] at h
  exact h.1.1.1.2

/-- A hook line of a slot is latched high exactly when it is in that slot's AUX_LOW (R35). -/
theorem getLsbD_allAuxLow (h : c.wf = true) {p : SlotConfig} (hp : p ∈ c.slots) {i : Nat}
    (hi : (hookLines p).getLsbD i = true) : c.allAuxLow.getLsbD i = p.auxLow.getLsbD i := by
  cases hlow : p.auxLow.getLsbD i with
  | true => exact (getLsbD_foldr_or SlotConfig.auxLow i c.slots).2 ⟨p, hp, hlow⟩
  | false =>
    have hoff : (c.allAuxHigh ||| c.allStrobe).getLsbD i = true := by
      rw [getLsbD_hookLines, hlow] at hi
      rw [BitVec.getLsbD_or, Bool.or_eq_true]
      rcases hi with hhigh | hlow | hstrobe
      · exact .inl ((getLsbD_foldr_or SlotConfig.auxHigh i c.slots).2 ⟨p, hp, hhigh⟩)
      · cases hlow
      · exact .inr ((getLsbD_foldr_or SlotConfig.strobe i c.slots).2 ⟨p, hp, hstrobe⟩)
    have hboth := congrArg (fun w => w.getLsbD i) (wf_senses h)
    simpa only [BitVec.getLsbD_and, hoff, Bool.and_true, BitVec.ofNat_eq_ofNat, BitVec.getLsbD_zero] using hboth

/-- A line that no slot has as a hook is latched low (R35). -/
theorem getLsbD_allAuxLow_of_no_hook {i : Nat} (hno : ∀ p ∈ c.slots, (hookLines p).getLsbD i = false) :
    c.allAuxLow.getLsbD i = false := by
  rw [Bool.eq_false_iff]
  intro hlow
  obtain ⟨p, hp, hi⟩ := (getLsbD_foldr_or SlotConfig.auxLow i c.slots).1 hlow
  exact absurd ((getLsbD_hookLines p i).2 (.inr (.inl hi))) (by rw [hno p hp]; exact Bool.false_ne_true)

/-! ### The constructed controller (R35, R210) -/

/-- Construction with the GPIO mapped, from the state of reset. -/
theorem constructed_of_mapped (h : c.gpioMapped = true) :
    State.constructed c =
      { State.powerOn c with
        gpioOut := c.allAuxLow
        gpioPP := c.resetPP
        trace := [.lineSet c.allAuxLow (c.resetLow), .lineDir (c.resetPP) .pushPull, .lineDir (bit c.miso) .input] } :=
  if_pos h

/-- Without the GPIO construction does nothing (R19). -/
theorem constructed_of_unmapped (h : c.gpioMapped = false) : State.constructed c = State.powerOn c :=
  if_neg (by rw [h]; exact Bool.false_ne_true)

theorem dev_constructed (c : Config) (d : Slot) : (State.constructed c).dev d = Device.blank := by
  have hdev : (State.constructed c).dev d = (State.powerOn c).dev d := by
    unfold State.constructed
    split <;> rfl
  exact hdev.trans (dev_powerOn c d)

/-- A line is an output after construction exactly when construction makes it push-pull. -/
theorem dirOf_constructed (h : c.gpioMapped = true) (n : Nat) :
    (State.constructed c).dirOf n = if c.resetPP.getLsbD n then .pushPull else .input := by
  rw [constructed_of_mapped h]
  simp [State.dirOf, State.powerOn]

/-- A line that is no hook and neither SCK nor MOSI is an input with latch 0 after construction (R35). -/
theorem constructed_other_line (h : c.gpioMapped = true) {n : Nat} (hn : n < 32) (hsck : n ≠ c.sck)
    (hmosi : n ≠ c.mosi) (hno : ∀ p ∈ c.slots, (hookLines p).getLsbD n = false) :
    (State.constructed c).dirOf n = .input ∧ (State.constructed c).gpioOut.getLsbD n = false := by
  have hin : c.resetPP.getLsbD n ≠ true := by
    rw [Ne, getLsbD_resetPP hn]
    rintro (hs | hm | ⟨p, hp, hi⟩)
    · exact hsck hs.symm
    · exact hmosi hm.symm
    · rw [hno p hp] at hi; cases hi
  refine ⟨(dirOf_constructed h n).trans (if_neg hin), ?_⟩
  rw [constructed_of_mapped h]
  exact getLsbD_allAuxLow_of_no_hook hno

/-- Settles O52: the masks of construction are read line by line; the other fields are those of reset. -/
theorem constructionTable : Obligations.ConstructionTable := by
  intro c hwf hmap s
  obtain ⟨hsck, hmosi, hmiso, -, hsckMiso, hmosiMiso⟩ := Config.wf_bus hwf
  have hs : s = _ := constructed_of_mapped hmap
  have houtput : ∀ n < 32, (c.sck = n ∨ c.mosi = n ∨ ∃ p ∈ c.slots, (hookLines p).getLsbD n = true) →
      s.dirOf n = .pushPull :=
    fun n hn hline => (dirOf_constructed hmap n).trans (if_pos ((getLsbD_resetPP hn).2 hline))
  have hlow : ∀ n < 32, (n = c.sck ∨ n = c.mosi ∨ n = c.miso ∨ ∃ q ∈ c.slots, q.cs = n) →
      s.gpioOut.getLsbD n = false := fun n hn hline => by
    rw [hs]
    exact getLsbD_allAuxLow_of_no_hook fun p hp => hookLines_of_signal hwf hn hline hp
  have hmisoLine := constructed_other_line hmap hmiso hsckMiso.symm hmosiMiso.symm
    fun p hp => hookLines_of_signal hwf hmiso (.inr (.inr (.inl rfl))) hp
  refine ⟨houtput _ hsck (.inl rfl), houtput _ hmosi (.inr (.inl rfl)), hmisoLine.1, hlow _ hsck (.inl rfl),
    hlow _ hmosi (.inr (.inl rfl)), ?slots, ?others, ?rest⟩
  case slots =>
    intro p hp
    have hmem : p.cs ∈ c.slots.map SlotConfig.cs := List.mem_map_of_mem hp
    have hcs : p.cs < 32 :=
      Nat.lt_of_lt_of_le (Config.wf_bounded hwf _ (List.mem_append_right _ hmem)) (Config.wf_nlines hwf)
    have hnodup := Config.wf_nodup hwf
    simp only [List.cons_append, List.nil_append, List.nodup_cons, List.mem_cons, not_or] at hnodup
    obtain ⟨⟨-, -, hsckCs⟩, ⟨-, hmosiCs⟩, -⟩ := hnodup
    have hcsLine := constructed_other_line hmap hcs (fun he => hsckCs (he ▸ hmem)) (fun he => hmosiCs (he ▸ hmem))
      fun q hq => hookLines_of_signal hwf hcs (.inr (.inr (.inr ⟨p, hp, rfl⟩))) hq
    refine ⟨hcsLine.1, hcsLine.2, fun n hn hhook => ⟨houtput n hn (.inr (.inr ⟨p, hp, hhook⟩)), ?_⟩⟩
    rw [hs]
    exact getLsbD_allAuxLow hwf hp hhook
  case others => exact fun n hn hne hne' hno => constructed_other_line hmap hn hne hne' hno
  case rest =>
    have hdev : ∀ d : Slot, (s.dev d).valid = false := fun d => congrArg Device.valid (dev_constructed c d)
    have hmark : s.misconfigured = false := by
      rw [hs]
      show (!c.gpioMapped) = false
      rw [hmap]; rfl
    rw [hs] at hdev hmark ⊢
    exact ⟨rfl, rfl, rfl, rfl, rfl, rfl, hdev, rfl, rfl, rfl, rfl, hmark⟩

/-- The constructed controller of a legal platform meets the invariant. -/
theorem inv_constructed (h : c.wf = true) : Inv (State.constructed c) := by
  obtain ⟨hlow, hpp⟩ := ownLines_construction h
  have hreset := inv_powerOn h
  cases hmap : c.gpioMapped with
  | false => rw [constructed_of_unmapped hmap]; exact hreset
  | true =>
    rw [constructed_of_mapped hmap]
    exact { hreset with
      latchLines := ownLines_iff.1 hlow
      pushPullLines := ownLines_iff.1 hpp
      oneDirection := BitVec.and_zero }

/-- Settles O55: the invariant holds after construction, and with no slot registered the select invariant asks
nothing. -/
theorem resetMeetsInvariant : Obligations.ResetMeetsInvariant := by
  refine fun c hwf => ⟨inv_constructed hwf, fun d hready => ?_⟩
  have hvalid : ((State.constructed c).dev d).valid = true := (Bool.and_eq_true_iff.1 hready).2
  rw [dev_constructed] at hvalid
  cases hvalid

end Sys2Proof.Machine
end

section
/-! SUPPORT. The register window: what an aligned read returns, what an aligned write does, and the fields of the
registers bit by bit (spec/10_state.md R22 to R33, spec/20_memory.md R47, spec/60_exceptions.md R190). -/

namespace Sys2Proof.Machine

/-! ### Accesses (R22, R47) -/

theorem accessOk_iff (off : Word) (width : Nat) : accessOk off width = true ↔ width = 4 ∧ off.toNat % 4 = 0 := by
  unfold accessOk
  rw [Bool.and_eq_true, decide_eq_true_eq, decide_eq_true_eq]

/-- An aligned read of any register but GPIO_IN puts its value on the host's side and does nothing else. -/
theorem readReg_aligned {off : Word} (halign : off.toNat % 4 = 0) (hin : off ≠ 0x24) (s : State) :
    readReg off 4 s = .next { s with busData := regValue s off.toNat } := by
  have hok : accessOk off 4 = true := (accessOk_iff off 4).2 ⟨rfl, halign⟩
  unfold readReg
  simp only [hok, Bool.not_true, Bool.false_eq_true, if_false, if_neg hin]

/-- A read of GPIO_IN draws an answer of the environment (R27; log 19). -/
theorem readReg_gpioIn (s : State) :
    readReg 0x24 4 s =
      .next { s with busData := s.lineAnswer, lineScript := s.lineScript.tail, draws := s.draws + 1 } := rfl

/-- An access of another width or off a multiple of 4 has no meaning (R47). -/
theorem access_refused {off : Word} {width : Nat} (h : width ≠ 4 ∨ off.toNat % 4 ≠ 0) (v : Word) (s : State) :
    readReg off width s = .refused .badWindowAccess ∧ writeReg off width v s = .refused .badWindowAccess := by
  have hbad : accessOk off width = false := by
    rw [Bool.eq_false_iff, Ne, accessOk_iff]
    omega
  unfold readReg writeReg
  simp only [hbad, Bool.not_false, if_true, and_self]

/-- An aligned write to any other register than CMD, ARG0, COMP_POP and IRQ_EN is ignored (R22). -/
theorem writeReg_ignored {off : Word} (halign : off.toNat % 4 = 0) (hcmd : off ≠ 0x00) (harg : off ≠ 0x04)
    (hpop : off ≠ 0x44) (hirq : off ≠ 0x48) (v : Word) (s : State) : writeReg off 4 v s = .next s := by
  have hok : accessOk off 4 = true := (accessOk_iff off 4).2 ⟨rfl, halign⟩
  unfold writeReg
  simp only [hok, Bool.not_true, Bool.false_eq_true, if_false, if_neg hcmd, if_neg harg, if_neg hpop, if_neg hirq]

theorem writeReg_cmd (w : Word) (s : State) : writeReg 0x00 4 w s = writeCmd w s := rfl

theorem writeReg_compPop (v : Word) (s : State) : writeReg 0x44 4 v s = .next (popCompletion s) := rfl

/-! ### Register values by offset (R22) -/

/-- The value of a device register, 0 for none (R33). -/
def deviceReg (s : State) : Option (Slot × Bool) → Word
  | some (d, false) => devCfgReg (s.dev d)
  | some (d, true) => devHzReg (s.dev d)
  | none => 0

/-- Past IRQ_EN the window holds the device registers. -/
theorem regValue_of_device {s : State} {off : Nat} (h : 0x48 < off) :
    regValue s off = deviceReg s (deviceOffset s.cfg off) := by
  have hne : ∀ k ≤ 0x48, off ≠ k := fun k hk => by omega
  rcases ho : deviceOffset s.cfg off with _ | ⟨d, _ | _⟩ <;>
    simp only [regValue, deviceReg, hne, ho, Nat.reduceLeDiff, if_false]

/-- An offset outside the device registers of the existing slots is none of theirs. -/
theorem deviceOffset_outside {c : Config} {off : Nat} (h : off < 0x80 ∨ 0x80 + 8 * c.ndev ≤ off) :
    deviceOffset c off = none := by
  unfold deviceOffset
  exact if_neg (by omega)

theorem deviceOffset_cfg {c : Config} {i : Slot} (hi : i.toNat < c.ndev) :
    deviceOffset c (0x80 + 8 * i.toNat) = some (i, false) := by
  unfold deviceOffset
  rw [if_pos (by omega), if_pos (by omega), show (0x80 + 8 * i.toNat - 0x80) / 8 = i.toNat by omega,
    BitVec.ofNat_toNat, BitVec.setWidth_eq]

theorem deviceOffset_hz {c : Config} {i : Slot} (hi : i.toNat < c.ndev) :
    deviceOffset c (0x84 + 8 * i.toNat) = some (i, true) := by
  unfold deviceOffset
  rw [if_pos (by omega), if_neg (by omega), if_pos (by omega), show (0x84 + 8 * i.toNat - 0x80) / 8 = i.toNat by omega,
    BitVec.ofNat_toNat, BitVec.setWidth_eq]

/-- The write-only registers and the offsets R22 does not list read 0. -/
theorem regValue_hole {s : State} {off : Nat}
    (h : off = 0x00 ∨ off = 0x08 ∨ off = 0x44 ∨ (0x4C ≤ off ∧ off < 0x80) ∨ 0x80 + 8 * s.cfg.ndev ≤ off) :
    regValue s off = 0 := by
  rcases h with rfl | rfl | rfl | h
  · rfl
  · rfl
  · rfl
  · rw [regValue_of_device (by omega), deviceOffset_outside (by omega)]; rfl

/-- A read of DEV_CFG or DEV_HZ of an existing slot (R33). -/
theorem readReg_device {s : State} {i : Slot} (hi : i.toNat < s.cfg.ndev) :
    readReg (BitVec.ofNat 32 (0x80 + 8 * i.toNat)) 4 s = .next { s with busData := devCfgReg (s.dev i) } ∧
      readReg (BitVec.ofNat 32 (0x84 + 8 * i.toNat)) 4 s = .next { s with busData := devHzReg (s.dev i) } := by
  have hlt : i.toNat < 16 := i.isLt
  have read : ∀ base, base = 0x80 ∨ base = 0x84 →
      readReg (BitVec.ofNat 32 (base + 8 * i.toNat)) 4 s =
        .next { s with busData := regValue s (base + 8 * i.toNat) } := by
    intro base hbase
    have hnat : (BitVec.ofNat 32 (base + 8 * i.toNat)).toNat = base + 8 * i.toNat := by
      rw [BitVec.toNat_ofNat]; omega
    have hin : BitVec.ofNat 32 (base + 8 * i.toNat) ≠ 0x24 := fun he => by
      have h24 : base + 8 * i.toNat = 0x24 := hnat.symm.trans (congrArg BitVec.toNat he)
      omega
    rw [readReg_aligned (by omega) hin, hnat]
  rw [read 0x80 (.inl rfl), read 0x84 (.inr rfl), regValue_of_device (by omega), regValue_of_device (by omega),
    deviceOffset_cfg hi, deviceOffset_hz hi]
  exact ⟨rfl, rfl⟩

/-! ### Register fields by bit -/

theorem getLsbD_flagAt (n : Nat) (b : Bool) {i : Nat} (hi : i < 32) :
    (flagAt n b).getLsbD i = (b && decide (n = i)) := by
  unfold flagAt
  cases b
  · exact BitVec.getLsbD_zero
  · simp only [if_true, getLsbD_bit n i hi, Bool.true_and]

/-- A field is the bits it is made of. -/
theorem extractLsb'_eq_of_getLsbD {w : Word} {start len : Nat} {v : BitVec len}
    (h : ∀ i < len, w.getLsbD (start + i) = v.getLsbD i) : w.extractLsb' start len = v :=
  BitVec.eq_of_getLsbD_eq fun i hi => by
    rw [BitVec.getLsbD_extractLsb', h i hi]
    simp [hi]

/-- STATUS, bit by bit (R25). -/
theorem getLsbD_statusReg (s : State) {i : Nat} (hi : i < 32) :
    (statusReg s).getLsbD i =
      ((s.busy && decide (0 = i)) || (s.heldCs.isSome && decide (1 = i)) ||
        (decide (4 ≤ i) && (s.heldCs.getD 0).getLsbD (i - 4)) || (s.inflight.isSome && decide (8 = i)) ||
        (!s.queue.isEmpty && decide (9 = i)) || (!s.comp.isEmpty && decide (10 = i)) ||
        (s.misconfigured && decide (31 = i))) := by
  unfold statusReg
  simp only [BitVec.getLsbD_or, getLsbD_flagAt _ _ hi, BitVec.getLsbD_shiftLeft, BitVec.getLsbD_setWidth, hi,
    show i - 4 < 32 by omega, decide_true, Bool.true_and]
  congr
  rw [← decide_not, decide_eq_decide]
  omega

/-- CUR_DIV, bit by bit (R26). -/
theorem getLsbD_curDivReg (s : State) {i : Nat} (hi : i < 32) :
    (curDivReg s).getLsbD i =
      ((s.speed.divider.isSome && decide (31 = i)) || (s.speed.divider.getD 0).getLsbD i) := by
  unfold curDivReg
  cases s.speed.divider with
  | none => simp
  | some d => simp [getLsbD_bit 31 i hi, hi, -BitVec.getLsbD_eq_getElem]

/-- DEV_CFG of a registered slot, bit by bit (R33). -/
theorem getLsbD_devCfgReg {v : Device} {i : Nat} (hi : i < 32) :
    (devCfgReg v).getLsbD i =
      (v.valid && (decide (31 = i) || (decide (8 ≤ i) && v.bpw.getLsbD (i - 8)) || (v.csHigh && decide (2 = i)) ||
        (v.cpol && decide (1 = i)) || (v.cpha && decide (0 = i)))) := by
  unfold devCfgReg
  cases v.valid with
  | false => simp
  | true =>
    simp only [if_true, Bool.true_and, BitVec.getLsbD_or, getLsbD_flagAt _ _ hi, getLsbD_bit _ _ hi,
      BitVec.getLsbD_shiftLeft, BitVec.getLsbD_setWidth, hi, show i - 8 < 32 by omega, decide_true]
    congr
    rw [← decide_not, decide_eq_decide]
    omega

/-! ### The statements -/

/-- Settles O6: a CMD write is `writeCmd`, read through what the word and ARG0 decode to. -/
theorem cmdWriteRunsCommand : Obligations.CmdWriteRunsCommand := by
  refine ⟨fun s w i hi => ?_, fun s w hno => ?_, fun s w => rfl⟩
  · rw [writeReg_cmd]
    unfold writeCmd
    rw [hi]
  · rw [writeReg_cmd]
    unfold writeCmd
    cases hd : decodeCmd w s.arg0 with
    | error e => rfl
    | ok i => exact absurd hd (hno i)

/-- Settles O47: each field is read off STATUS bit by bit. -/
theorem statusFields : Obligations.StatusFields := by
  intro s
  refine ⟨statusReg s, readReg_aligned (by decide) (by decide) s, ?busy, ?heldValid, ?low, ?heldDev, ?inflight, ?queue,
    ?comp, ?high, ?mark⟩
  case busy => rw [getLsbD_statusReg s (by omega)]; simp
  case heldValid => rw [getLsbD_statusReg s (by omega)]; simp
  case low =>
    refine extractLsb'_eq_of_getLsbD fun i hi => ?_
    rw [getLsbD_statusReg s (by omega)]
    interval_cases i <;> simp
  case heldDev =>
    refine extractLsb'_eq_of_getLsbD fun i hi => ?_
    rw [getLsbD_statusReg s (by omega)]
    interval_cases i <;> simp
  case inflight => rw [getLsbD_statusReg s (by omega)]; simp
  case queue => rw [getLsbD_statusReg s (by omega)]; cases s.queue <;> simp
  case comp => rw [getLsbD_statusReg s (by omega)]; cases s.comp <;> simp
  case high =>
    refine extractLsb'_eq_of_getLsbD fun i hi => ?_
    have hheld : (s.heldCs.getD 0).getLsbD (11 + i - 4) = false := BitVec.getLsbD_of_ge _ _ (by omega)
    have hlow : ∀ k ≤ 10, k ≠ 11 + i := fun k hk => by omega
    have hmark : 31 ≠ 11 + i := by omega
    rw [getLsbD_statusReg s (by omega), hheld]
    simp [hlow, hmark]
  case mark => rw [getLsbD_statusReg s (by omega)]; simp

/-- Settles O48: the offsets of the device registers are those of their slots, and each field is read bit by bit. -/
theorem speedAndDeviceRegisters : Obligations.SpeedAndDeviceRegisters := by
  intro s
  refine ⟨readReg_aligned (by decide) (by decide) s, readReg_aligned (by decide) (by decide) s,
    ⟨curDivReg s, readReg_aligned (by decide) (by decide) s, ?divSome, ?divValue, ?divHigh⟩, fun i _ hi => ?device⟩
  case divSome =>
    have hd : (s.speed.divider.getD 0).getLsbD 31 = false := BitVec.getLsbD_of_ge _ _ (by omega)
    rw [getLsbD_curDivReg s (by omega), hd]
    simp
  case divValue =>
    refine extractLsb'_eq_of_getLsbD fun i hi => ?_
    rw [getLsbD_curDivReg s (by omega), Nat.zero_add, decide_eq_false (by omega), Bool.and_false, Bool.false_or]
  case divHigh =>
    refine extractLsb'_eq_of_getLsbD fun i hi => ?_
    rw [getLsbD_curDivReg s (by omega), decide_eq_false (by omega), Bool.and_false, Bool.false_or]
    exact (BitVec.getLsbD_of_ge _ _ (by omega)).trans BitVec.getLsbD_zero.symm
  case device =>
    obtain ⟨hcfg, hhz⟩ := readReg_device hi
    refine ⟨⟨devCfgReg (s.dev i), hcfg, ?valid, ?bpw, ?csHigh, ?cpol, ?cpha, ?low, ?high⟩, hhz⟩
    case valid => rw [getLsbD_devCfgReg (by omega)]; simp
    case bpw =>
      refine extractLsb'_eq_of_getLsbD fun k hk => ?_
      rw [getLsbD_devCfgReg (by omega)]
      cases (s.dev i).valid
      · simp
      · interval_cases k <;> simp
    case csHigh => rw [getLsbD_devCfgReg (by omega)]; simp
    case cpol => rw [getLsbD_devCfgReg (by omega)]; simp
    case cpha => rw [getLsbD_devCfgReg (by omega)]; simp
    case low =>
      refine extractLsb'_eq_of_getLsbD fun k hk => ?_
      rw [getLsbD_devCfgReg (by omega)]
      interval_cases k <;> simp
    case high =>
      refine extractLsb'_eq_of_getLsbD fun k hk => ?_
      have hbpw : (s.dev i).bpw.getLsbD (16 + k - 8) = false := BitVec.getLsbD_of_ge _ _ (by omega)
      have hlow : ∀ j ≤ 2, j ≠ 16 + k := fun j hj => by omega
      have hvalid : 31 ≠ 16 + k := by omega
      rw [getLsbD_devCfgReg (by omega), hbpw]
      simp [hlow, hvalid]

/-- A line is an output exactly when GPIO_DIR shows it, open-drain exactly when GPIO_OD does (R27). -/
theorem getLsbD_directions (s : State) (n : Nat) :
    (gpioDirReg s).getLsbD n = decide (s.dirOf n ≠ .input) ∧
      s.gpioOD.getLsbD n = decide (s.dirOf n = .openDrain) := by
  unfold gpioDirReg State.dirOf
  rw [BitVec.getLsbD_or]
  cases s.gpioPP.getLsbD n <;> cases s.gpioOD.getLsbD n <;> exact ⟨rfl, rfl⟩

/-- Settles O49: the masks of the invariant have no line at or above NLINES, and an answer is cut to own lines. -/
theorem lineRegisters : Obligations.LineRegisters := by
  intro s h
  have hn : s.cfg.nlines ≤ 32 := Config.wf_nlines h.platform
  have hpp : ownLines s.cfg s.gpioPP = true := ownLines_iff.2 h.pushPullLines
  have hod : ownLines s.cfg s.gpioOD = true := ownLines_iff.2 h.openDrainLines
  have hanswer : ownLines s.cfg s.lineAnswer = true := by
    unfold State.lineAnswer
    rw [ownLines_iff, BitVec.and_assoc, BitVec.and_not_self]
    exact BitVec.and_zero
  refine ⟨⟨s.gpioOut, gpioDirReg s, s.gpioOD, s.lineAnswer, readReg_aligned (by decide) (by decide) s,
    readReg_aligned (by decide) (by decide) s, readReg_aligned (by decide) (by decide) s, readReg_gpioIn s, rfl,
    fun n _ => ⟨rfl, getLsbD_directions s n⟩, fun n hi hge => ⟨?_, ?_, ?_, ?_⟩⟩, fun v off hoff => ?_⟩
  · exact getLsbD_of_ownLines hn (ownLines_iff.2 h.latchLines) hi hge
  · exact getLsbD_of_ownLines hn (ownLines_or.2 ⟨hpp, hod⟩) hi hge
  · exact getLsbD_of_ownLines hn hod hi hge
  · exact getLsbD_of_ownLines hn hanswer hi hge
  · simp only [List.mem_cons, List.not_mem_nil, or_false] at hoff
    rcases hoff with rfl | rfl | rfl | rfl <;>
      exact writeReg_ignored (by decide) (by decide) (by decide) (by decide) (by decide) v s

/-- Settles O50: the five registers are fields of the head record, or of the record of zeros when there is none. -/
theorem completionRegistersAndInterrupt : Obligations.CompletionRegistersAndInterrupt := by
  have read : ∀ (s : State) (off : Word), off.toNat % 4 = 0 → off ≠ 0x24 →
      readReg off 4 s = .next { s with busData := regValue s off.toNat } := fun s off h h' => readReg_aligned h h' s
  refine ⟨fun s r rest hc => ?pending, fun s hc => ?empty, fun s v => ⟨rfl, ?enable⟩⟩
  case pending =>
    have hhead : compHead s = r := by unfold compHead; rw [hc]; rfl
    have hirq : irq s = s.compIe := by unfold irq; rw [hc]; exact Bool.and_true _
    subst hhead
    refine ⟨read s 0x30 (by decide) (by decide), read s 0x34 (by decide) (by decide),
      read s 0x38 (by decide) (by decide), read s 0x3C (by decide) (by decide), read s 0x40 (by decide) (by decide),
      fun v => ?_, hirq⟩
    rw [writeReg_compPop]
    unfold popCompletion
    rw [hc]
    rfl
  case empty =>
    have hirq : irq s = false := by unfold irq; rw [hc]; exact Bool.and_false _
    have hhead : compHead s = { msg := 0, callback := 0, context := 0, status := 0, actualLength := 0 } := by
      unfold compHead; rw [hc]; rfl
    have hpop : popCompletion s = s := by cases s; cases hc; rfl
    refine ⟨fun off hoff => ?_, fun v => (writeReg_compPop v s).trans (congrArg _ hpop), hirq⟩
    have hzero : regValue s off.toNat = 0 ∧ off.toNat % 4 = 0 ∧ off ≠ 0x24 := by
      simp only [List.mem_cons, List.not_mem_nil, or_false] at hoff
      rcases hoff with rfl | rfl | rfl | rfl | rfl
      · exact ⟨congrArg CompRec.msg hhead, by decide, by decide⟩
      · exact ⟨congrArg CompRec.callback hhead, by decide, by decide⟩
      · exact ⟨congrArg CompRec.context hhead, by decide, by decide⟩
      · exact ⟨congrArg CompRec.status hhead, by decide, by decide⟩
      · exact ⟨congrArg CompRec.actualLength hhead, by decide, by decide⟩
    obtain ⟨hvalue, halign, hin⟩ := hzero
    rw [read s off halign hin, hvalue]
  case enable => exact read s 0x48 (by decide) (by decide)

/-- Settles O51: a refused access is one `accessOk` rejects, an aligned write elsewhere is ignored, a hole reads 0. -/
theorem windowAccessRules : Obligations.WindowAccessRules := by
  intro s off v
  refine ⟨fun width h => access_refused h v s,
    fun halign hcmd harg hpop hirq => writeReg_ignored halign hcmd harg hpop hirq v s,
    fun halign hoff => ?_, readReg_aligned (by decide) (by decide) s, readReg_aligned (by decide) (by decide) s⟩
  have hcases : off.toNat = 0x00 ∨ off.toNat = 0x08 ∨ off.toNat = 0x44 ∨ (0x4C ≤ off.toNat ∧ off.toNat < 0x80) ∨
      0x80 + 8 * s.cfg.ndev ≤ off.toNat := by
    rcases hoff with rfl | rfl | rfl | ⟨hlow, hhigh⟩ | hpast
    · exact .inl rfl
    · exact .inr (.inl rfl)
    · exact .inr (.inr (.inl rfl))
    · exact .inr (.inr (.inr (.inl ⟨hlow, by omega⟩)))
    · exact .inr (.inr (.inr (.inr hpast)))
  have hin : off ≠ 0x24 := fun he => by
    have h24 : off.toNat = 0x24 := congrArg BitVec.toNat he
    omega
  rw [readReg_aligned halign hin, regValue_hole hcases]

end Sys2Proof.Machine
end

section
/-! SUPPORT. Words and bytes of host memory (spec/20_memory.md R41 to R48, R57): the address of a byte of a word or of a
buffer, a word read and a word written byte by byte, what a host store does, and what the operations over Messages ask
of an address. -/

namespace Sys2Proof.Machine

/-! ### Addresses (R41, R48) -/

/-- An offset inside the address space is added without wrapping. -/
theorem toNat_add_ofNat {a : Word} {k : Nat} (h : a.toNat + k < 2 ^ 32) : (a + BitVec.ofNat 32 k).toNat = a.toNat + k := by
  rw [BitVec.toNat_add, BitVec.toNat_ofNat]; omega

/-- A legal range ends inside the address space (R48). -/
theorem rangeOk_bound {c : Config} {a : Word} {n : Nat} (h : rangeOk c a n = true) : a.toNat + n ≤ 2 ^ 32 := by
  unfold rangeOk at h
  rw [Bool.and_eq_true] at h
  exact of_decide_eq_true h.1

/-- What R43 and R48 ask of a message descriptor. -/
theorem messageOk_iff {c : Config} {m : Word} :
    messageOk c m = .ok () ↔ descriptorAddress m = true ∧ rangeOk c m 24 = true := by
  unfold messageOk
  cases descriptorAddress m <;> cases rangeOk c m 24 <;> simp

/-- The six words of a legal message descriptor are inside the address space (R44). -/
theorem messageOk_bound {c : Config} {m : Word} (h : messageOk c m = .ok ()) : m.toNat + 24 ≤ 2 ^ 32 :=
  rangeOk_bound (messageOk_iff.1 h).2

/-- The two result words of a legal message descriptor (R44). -/
theorem toNat_resultWords {c : Config} {m : Word} (h : messageOk c m = .ok ()) :
    (m + 0x10).toNat = m.toNat + 0x10 ∧ (m + 0x14).toNat = m.toNat + 0x14 := by
  have := messageOk_bound h
  exact ⟨toNat_add_ofNat (k := 0x10) (by omega), toNat_add_ofNat (k := 0x14) (by omega)⟩

/-! ### A word written (R41) -/

/-- The bytes of a word written, lowest first, and that no other byte changes. -/
theorem read_memWrite4 {a : Word} (v : Word) (s : State) (h : a.toNat + 4 ≤ 2 ^ 32) :
    (∀ j < 4, (memWrite4 a v s).mem.read (a.toNat + j) = some (v.extractLsb' (8 * j) 8)) ∧
      ∀ x : Nat, x < a.toNat ∨ a.toNat + 4 ≤ x → (memWrite4 a v s).mem.read x = s.mem.read x := by
  have h1 : (a + 1).toNat = a.toNat + 1 := toNat_add_ofNat (k := 1) (by omega)
  have h2 : (a + 2).toNat = a.toNat + 2 := toNat_add_ofNat (k := 2) (by omega)
  have h3 : (a + 3).toNat = a.toNat + 3 := toNat_add_ofNat (k := 3) (by omega)
  simp only [memWrite4_eq, read_write, h1, h2, h3]
  refine ⟨fun j hj => ?_, fun x hx => ?_⟩
  · interval_cases j <;> simp
  · rw [if_neg (by omega), if_neg (by omega), if_neg (by omega), if_neg (by omega)]

/-! ### A word read, with no byte raced (R41, R57) -/

/-- The little-endian word of host memory at `a`. -/
def State.memWord (s : State) (a : Word) : Word :=
  s.memByte (a + 3) ++ s.memByte (a + 2) ++ s.memByte (a + 1) ++ s.memByte a

theorem byteAt_eq_memByte {s : State} (h : s.raced = []) (a : Word) : s.byteAt a = s.memByte a :=
  byteAt_of_not_raced s a h

theorem wordAt_eq_memWord {s : State} (h : s.raced = []) (a : Word) : s.wordAt a = s.memWord a := by
  simp only [State.wordAt, State.memWord, byteAt_eq_memByte h]

/-- The byte memory holds depends on that one address only. -/
theorem memByte_congr {s t : State} {a : Word} (h : t.mem.read a.toNat = s.mem.read a.toNat) :
    t.memByte a = s.memByte a := congrArg (·.getD (Config.unwrittenByte a)) h

/-- The word memory holds depends on its four addresses only. -/
theorem memWord_congr {s t : State} {a : Word} (ha : a.toNat + 4 ≤ 2 ^ 32)
    (h : ∀ i < 4, t.mem.read (a.toNat + i) = s.mem.read (a.toNat + i)) : t.memWord a = s.memWord a := by
  have hbyte : ∀ i < 4, t.memByte (a + BitVec.ofNat 32 i) = s.memByte (a + BitVec.ofNat 32 i) := fun i hi =>
    memByte_congr (by rw [toNat_add_ofNat (by omega)]; exact h i hi)
  have h0 : t.memByte a = s.memByte a := memByte_congr (h 0 (by omega))
  unfold State.memWord
  rw [h0]
  exact congrArg (· ++ s.memByte a) (congrArg₂ (· ++ ·) (congrArg₂ (· ++ ·) (hbyte 3 (by omega)) (hbyte 2 (by omega)))
    (hbyte 1 (by omega)))

/-- With no byte raced, a word read is that of any state with the same memory. -/
theorem wordAt_congr {s t : State} (hs : s.raced = []) (ht : t.raced = []) (hm : t.mem = s.mem) (a : Word) :
    t.wordAt a = s.wordAt a := by
  rw [wordAt_eq_memWord hs, wordAt_eq_memWord ht]
  simp only [State.memWord, State.memByte, hm]

/-! ### A host store (R57) -/

/-- Settles O46: a mark is made for every Message in flight, and a read looks for the mark of the one in the
sequencer. -/
theorem racedByteReadsAsAnyValue : Obligations.RacedByteReadsAsAnyValue := by
  have read_marked : ∀ (s : State) (e : Entry) (a : Word), (e.msg, a) ∈ s.raced → s.inflight = some e →
      (memRead1 a s).1 = Config.racedByte s.draws a := by
    intro s e a hmark hi
    have hraced : s.isRaced a = true := by unfold State.isRaced; rw [hi]; exact List.contains_iff_mem.2 hmark
    rw [memRead1_eq, State.byteAt, if_pos hraced]
  have marks : ∀ (s : State) (e : Entry) (a : Word) (b : Byte), e.msg ∈ s.inFlight →
      (e.msg, a) ∈ (hostStore a b s).raced := fun s e a b h => List.mem_append_right _ (List.mem_map_of_mem h)
  refine ⟨fun s a b => ⟨rfl, fun x => read_write s.mem a.toNat x b⟩, fun s e a b he => ?_, fun s e a b hi hw => ?_,
    read_marked⟩
  · exact marks s e a b (List.mem_append_left _ (List.mem_map_of_mem he))
  · have hmark : (e.msg, a) ∈ (hostStore a b s).raced := by
      refine marks s e a b (List.mem_append_right _ ?_)
      rw [hi]
      cases hs : s.worker with
      | owes h => exact absurd hs (hw h)
      | atStart => exact List.mem_singleton_self _
      | serving => exact List.mem_singleton_self _
    exact ⟨hmark, read_marked _ e a hmark hi⟩

/-! ### SUBMIT (R157) -/

/-- On a constructed controller SUBMIT asks its operands, then for room. -/
theorem execSubmit_eq {d : Slot} {m : Word} {s : State} (hmis : s.misconfigured = false) (hready : s.ready d = true)
    (haddr : descriptorAddress m = true) :
    execSubmit d m s = if hasRoom s.cfg s.queue.length then .next (enqueue { msg := m, dev := d } s)
      else .refused .queueFull := by
  unfold execSubmit
  rw [hmis, submitOperands_ok.2 ⟨hready, haddr⟩]
  rfl

/-- Settles O37: SUBMIT with room is `enqueue`. -/
theorem submitAppendsToTail : Obligations.SubmitAppendsToTail := by
  intro s d m hmis hready haddr hroom
  refine (execSubmit_eq hmis hready haddr).trans ?_
  rw [if_pos ((hasRoom_iff _ _).2 hroom)]
  rfl

/-! ### COMPLETE (R162) -/

/-- COMPLETE of a legal descriptor asks for room. -/
theorem execComplete_eq {d : Slot} {m : Word} {s : State} (hslot : s.cfg.hasSlot d = true) :
    execComplete d m s = outcome (completeMsg m s) := if_pos hslot

/-- Settles O43: the two reads see memory as it is, and the marks kept are those of the filter. -/
theorem completeAppendsRecord : Obligations.CompleteAppendsRecord := by
  refine ⟨fun s d m hslot hm hraced hroom => ?_, fun s t d m h x a => ?_⟩
  · have hword : (memRead4 (m + 8) s).2.wordAt (m + 12) = s.wordAt (m + 12) :=
      wordAt_congr (s := s) (t := (memRead4 (m + 8) s).2) hraced hraced rfl (m + 12)
    refine (execComplete_eq hslot).trans ?_
    unfold completeMsg
    rw [hm, if_pos ((hasRoom_iff _ _).2 hroom)]
    simp only [outcome, memRead4_eq] at hword ⊢
    rw [hword, dropMarks_of_nil]
    · simp [emit]
    · exact hraced
  · obtain ⟨r, u, -, -, rfl, -, rfl⟩ := completeMsg_ok (execComplete_next h)
    show (x, a) ∈ s.raced.filter (fun e => e.1 != m || (s.queue.map Entry.msg).contains m) ↔ _
    rw [List.mem_filter]
    simp only [Bool.or_eq_true, bne_iff_ne, List.contains_iff_mem, List.mem_map, and_congr_right_iff]
    exact fun _ => ⟨fun h he => h.resolve_left fun hne => hne he, fun h => not_or_of_imp h⟩

/-! ### The result of a Message (R139 to R143) -/

/-- The status is 0 or 1, a short Message holds no select, and a held one is the Message's own. -/
structure ResultOf (d : Slot) (r : SeqResult) : Prop where
  status : r.status = 0 ∨ r.status = 1
  short : r.status = 1 → r.held = none
  own : ∀ e, r.held = some e → e = d

theorem resultOf_runTransfers {d : Slot} {ptr : Word} :
    ∀ {left xi : Nat} {asserted : Bool} {actual : Word} {s : State} {r : SeqResult} {s' : State},
      runTransfers d ptr left xi asserted actual s = .ok (r, s') → ResultOf d r
  | 0, _, asserted, _, _, _, _, h => by
    simp only [runTransfers, Except.ok.injEq, Prod.mk.injEq] at h
    obtain ⟨rfl, -⟩ := h
    refine ⟨.inl rfl, fun h1 => absurd h1 (show (0 : Word) ≠ 1 by decide), fun e he => ?_⟩
    cases asserted
    · cases he
    · exact (Option.some.inj he).symm
  | _ + 1, _, _, _, _, _, _, h => by
    simp only [runTransfers] at h
    split at h
    · cases h
    · split at h
      · cases h; exact ⟨.inr rfl, fun _ => rfl, fun e he => by cases he⟩
      · split at h <;> exact resultOf_runTransfers h

theorem resultOf_runMessage {d : Slot} {ptr : Word} {cnt : Nat} {held : Option Slot} {s : State} {r : SeqResult}
    {s' : State} (h : runMessage d ptr cnt held s = .ok (r, s')) : ResultOf d r := by
  unfold runMessage at h
  split at h
  · cases h; exact ⟨.inl rfl, fun _ => rfl, fun e he => by cases he⟩
  · split at h
    · cases h
    · split at h <;> exact resultOf_runTransfers h

/-- The result words hold the result, and no other byte changes (R56). -/
theorem read_writeResults {m : Word} (r : SeqResult) (s : State) (h : messageOk s.cfg m = .ok ()) :
    (∀ j < 4, (writeResults m r s).mem.read (m.toNat + 0x10 + j) = some (r.status.extractLsb' (8 * j) 8)) ∧
      (∀ j < 4, (writeResults m r s).mem.read (m.toNat + 0x14 + j) = some (r.actual.extractLsb' (8 * j) 8)) ∧
      ∀ a : Nat, a < m.toNat + 0x10 ∨ m.toNat + 0x18 ≤ a → (writeResults m r s).mem.read a = s.mem.read a := by
  have hb := messageOk_bound h
  obtain ⟨h1, h2⟩ := toNat_resultWords h
  obtain ⟨status, other1⟩ := read_memWrite4 r.status s (a := m + 0x10) (by omega)
  obtain ⟨actual, other2⟩ := read_memWrite4 r.actual (memWrite4 (m + 0x10) r.status s) (a := m + 0x14) (by omega)
  rw [h1] at status other1
  rw [h2] at actual other2
  exact ⟨fun j hj => (other2 _ (by omega)).trans (status j hj), actual,
    fun a ha => (other2 a (by omega)).trans (other1 a (by omega))⟩

/-- The two result words are the last events of a Message (R56, R139). -/
theorem trace_writeResults (m : Word) (r : SeqResult) (s : State) :
    (writeResults m r s).trace =
      s.trace ++ [.memWrite (m + 0x10) 4 r.status, .memWrite (m + 0x14) 4 r.actual] := by
  simp [writeResults, memWrite4_eq]

/-- Settles O30: PROCESS_MSG ends with `writeResults` of a result `runMessage` gives. -/
theorem resultFieldsWritten : Obligations.ResultFieldsWritten := by
  intro s t d m h
  obtain ⟨r, u, -, hm, hr, rfl⟩ := processMsg_ok (outcome_eq_next.1 h)
  obtain ⟨hstatus, hshort, hown⟩ := resultOf_runMessage hr
  have hcfg : u.cfg = s.cfg := (sameControl_runMessage hr).cfg
  obtain ⟨status, actual, -⟩ := read_writeResults r u (hcfg.symm ▸ hm)
  exact ⟨status, actual, ⟨u.trace, trace_writeResults m r u⟩, hstatus, hshort, hown⟩

end Sys2Proof.Machine
end

section
/-! SUPPORT. The relation `Replays` of every operation: host memory, the environment's script and the draw counter are
what the new events of the trace make of them (spec/00_scope.md R7, spec/20_memory.md R41, R49), and which events an
XFER has (spec/41_bit_engine.md R102 to R111). -/

namespace Sys2Proof.Machine

/-! ### The relation -/

/-- The events `l` lead from `s` to `t`: they are what the trace gained, MemWrites among them are what memory gained,
LineGets used up the script, and LineGets and MemReads counted the draws. -/
structure ReplayOf (l : List Event) (s t : State) : Prop where
  trace : t.trace = s.trace ++ l
  mem : t.mem = l.foldl replayEvent s.mem
  script : t.lineScript = s.lineScript.drop (l.countP isLineGet)
  draws : t.draws = s.draws + l.countP isDraw

/-- Events that all meet `P` lead from `s` to `t`. -/
def Replays (P : Event → Prop) (s t : State) : Prop := ∃ l, ReplayOf l s t ∧ ∀ e ∈ l, P e

variable {P Q : Event → Prop}

/-- An update that writes none of the four fields. -/
theorem Replays.of_eq {s t : State} (h1 : t.trace = s.trace) (h2 : t.mem = s.mem) (h3 : t.lineScript = s.lineScript)
    (h4 : t.draws = s.draws) : Replays P s t :=
  ⟨[], ⟨by simp [h1], by simp [h2], by simp [h3], by simp [h4]⟩, fun e he => by cases he⟩

theorem Replays.refl (s : State) : Replays P s s := .of_eq rfl rfl rfl rfl

theorem Replays.trans {s t u : State} (h : Replays P s t) (k : Replays P t u) : Replays P s u := by
  obtain ⟨l, ⟨ht, hm, hs, hd⟩, hl⟩ := h
  obtain ⟨l', ⟨ht', hm', hs', hd'⟩, hl'⟩ := k
  refine ⟨l ++ l', ⟨?_, ?_, ?_, ?_⟩, fun e he => (List.mem_append.1 he).elim (hl e) (hl' e)⟩
  · rw [ht', ht, List.append_assoc]
  · rw [hm', hm, List.foldl_append]
  · rw [hs', hs, List.drop_drop, List.countP_append]
  · rw [hd', hd, List.countP_append, Nat.add_assoc]

theorem Replays.mono {s t : State} (h : Replays P s t) (hPQ : ∀ e, P e → Q e) : Replays Q s t := by
  obtain ⟨l, hl, hP⟩ := h
  exact ⟨l, hl, fun e he => hPQ e (hP e he)⟩

/-- What follows an update that writes none of the four fields. -/
theorem Replays.after {s t u : State} (h : Replays P t u) (h1 : t.trace = s.trace) (h2 : t.mem = s.mem)
    (h3 : t.lineScript = s.lineScript) (h4 : t.draws = s.draws) : Replays P s u :=
  (Replays.of_eq h1 h2 h3 h4).trans h

/-- One event leads from `s` to `t`. -/
theorem Replays.one {s t : State} {e : Event} (he : P e) (h : ReplayOf [e] s t) : Replays P s t :=
  ⟨[e], h, fun _ he' => List.mem_singleton.1 he' ▸ he⟩

/-! ### Lines, delays and host memory (R41, R90 to R97) -/

theorem replays_lineSet (high low : Word) (s : State) (h : P (.lineSet high low)) : Replays P s (lineSet high low s) := by
  rw [lineSet_eq]; exact .one h ⟨rfl, rfl, rfl, rfl⟩

theorem replays_lineTo (n : Nat) (v : Bool) (s : State) (h : P (levelEvent n v)) : Replays P s (lineTo n v s) :=
  replays_lineSet _ _ s h

theorem replays_lineDir (mask : Word) (dir : LineDir) (s : State) (h : P (.lineDir mask dir)) :
    Replays P s (lineDir mask dir s) := by
  cases dir <;> exact .one h ⟨rfl, rfl, rfl, rfl⟩

theorem replays_lineGet (s : State) (h : P (.lineGet s.lineAnswer)) : Replays P s (lineGet s).2 :=
  .one h ⟨rfl, rfl, List.drop_one.symm, rfl⟩

theorem replays_waitNs (ns : Word) (s : State) (h : P (.delay ns)) : Replays P s (waitNs ns s) := by
  unfold waitNs
  split
  · exact .refl s
  · exact .one h ⟨rfl, rfl, rfl, rfl⟩

theorem replays_memRead1 (a : Word) (s : State) (h : ∀ v, P (.memRead a 1 v)) : Replays P s (memRead1 a s).2 :=
  .one (h _) ⟨rfl, rfl, rfl, rfl⟩

theorem replays_memRead4 (a : Word) (s : State) (h : ∀ v, P (.memRead a 4 v)) : Replays P s (memRead4 a s).2 :=
  .one (h _) ⟨rfl, rfl, rfl, rfl⟩

theorem replays_memWrite1 (a : Word) (b : Byte) (s : State) (h : ∀ v, P (.memWrite a 1 v)) :
    Replays P s (memWrite1 a b s) := by
  refine .one (h _) ⟨rfl, ?_, rfl, rfl⟩
  have hb : (b.setWidth 32).extractLsb' 0 8 = b := by
    ext i hi; simp [show i < 32 by omega, hi]
  simp [memWrite1_eq, replayEvent, hb]

theorem replays_memWrite4 (a v : Word) (s : State) (h : P (.memWrite a 4 v)) : Replays P s (memWrite4 a v s) :=
  .one h ⟨rfl, rfl, rfl, rfl⟩

/-! ### Units on the wire (R102 to R106) -/

/-- The events of a unit on the platform `c` meet `P`. -/
structure WireEvents (c : Config) (P : Event → Prop) : Prop where
  sck : ∀ v, P (levelEvent c.sck v)
  mosi : ∀ v, P (levelEvent c.mosi v)
  sample : ∀ m, P (.lineGet m)
  delay : ∀ ns, P (.delay ns)

variable {c : Config}

theorem WireEvents.replays_sckTo (h : WireEvents c P) (v : Bool) {s : State} (hc : s.cfg = c) :
    Replays P s (sckTo v s) := replays_lineTo _ v s (hc ▸ h.sck v)

theorem WireEvents.replays_mosiTo (h : WireEvents c P) (v : Bool) {s : State} (hc : s.cfg = c) :
    Replays P s (mosiTo v s) := replays_lineTo _ v s (hc ▸ h.mosi v)

theorem WireEvents.replays_halfBit (h : WireEvents c P) (s : State) : Replays P s (halfBit s) :=
  replays_waitNs _ s (h.delay _)

theorem WireEvents.replays_sampleMiso (h : WireEvents c P) (s : State) : Replays P s (sampleMiso s) :=
  (replays_lineGet s (h.sample _)).trans (.of_eq rfl rfl rfl rfl)

theorem WireEvents.replays_sampleIf (h : WireEvents c P) (w : Bool) (s : State) : Replays P s (sampleIf w s) := by
  unfold sampleIf
  split
  · exact h.replays_sampleMiso s
  · exact .refl s

theorem replays_countBit (s : State) : Replays P s (countBit s) := .of_eq rfl rfl rfl rfl

theorem replays_endUnit (s : State) : Replays P s (endUnit s) := .of_eq rfl rfl rfl rfl

theorem replays_setBi (n : Nat) (s : State) : Replays P s (setBi n s) := .of_eq rfl rfl rfl rfl

theorem cfg_halfBit (s : State) : (halfBit s).cfg = s.cfg := (sameUnit_halfBit s).cfg

theorem cfg_sckTo (v : Bool) (s : State) : (sckTo v s).cfg = s.cfg := (sameUnit_sckTo v s).cfg

theorem cfg_mosiTo (v : Bool) (s : State) : (mosiTo v s).cfg = s.cfg := (sameUnit_mosiTo v s).cfg

theorem cfg_sampleIf (w : Bool) (s : State) : (sampleIf w s).cfg = s.cfg := (sameUnit_sampleIf w s).cfg

theorem WireEvents.replays_bitPhase0 (h : WireEvents c P) (w cpol b : Bool) {s : State} (hc : s.cfg = c) :
    Replays P s (bitPhase0 w cpol b s) :=
  (h.replays_mosiTo b hc).trans <| (h.replays_halfBit _).trans <|
    (h.replays_sckTo _ (by rw [cfg_halfBit, cfg_mosiTo, hc])).trans <| (h.replays_halfBit _).trans <|
      (h.replays_sampleIf w _).trans <|
        (h.replays_sckTo _ (by rw [cfg_sampleIf, cfg_halfBit, cfg_sckTo, cfg_halfBit, cfg_mosiTo, hc])).trans <|
          replays_countBit _

theorem WireEvents.replays_bitPhase1 (h : WireEvents c P) (w cpol b : Bool) {s : State} (hc : s.cfg = c) :
    Replays P s (bitPhase1 w cpol b s) :=
  (h.replays_sckTo _ hc).trans <| (h.replays_mosiTo b (by rw [cfg_sckTo, hc])).trans <|
    (h.replays_halfBit _).trans <| (h.replays_sckTo _ (by rw [cfg_halfBit, cfg_mosiTo, cfg_sckTo, hc])).trans <|
      (h.replays_halfBit _).trans <| (h.replays_sampleIf w _).trans <| replays_countBit _

theorem WireEvents.replays_bitHw (h : WireEvents c P) (cpol b : Bool) {s : State} (hc : s.cfg = c) :
    Replays P s (bitHw cpol b s) :=
  (h.replays_mosiTo b hc).trans <| (h.replays_sckTo _ (by rw [cfg_mosiTo, hc])).trans <|
    (h.replays_sampleMiso _).trans <|
      (h.replays_sckTo _ (by rw [(sameUnit_sampleMiso _).cfg, cfg_sckTo, cfg_mosiTo, hc])).trans <|
        replays_countBit _

/-- A loop of bits replays when one bit does. -/
theorem replays_shiftBits {one : Bool → State → State} (hone : ∀ b s, s.cfg = c → Replays P s (one b s))
    (hcfg : ∀ b s, SameUnit s (one b s)) : ∀ k s, s.cfg = c → Replays P s (shiftBits one k s)
  | 0, s, _ => .refl s
  | k + 1, s, hc =>
    (hone _ s hc).trans (replays_shiftBits hone hcfg k _ ((hcfg _ s).cfg.trans hc))

theorem WireEvents.replays_shiftByte (h : WireEvents c P) (cpha cpol w : Bool) (tx : Byte) {s : State}
    (hc : s.cfg = c) : Replays P s (shiftByte cpha cpol w tx s).2 := by
  have hbits : Replays P (loadUnit ((s.srTx &&& 0xFFFFFF00) ||| tx.setWidth 32) 8 s)
      (shiftBits (if cpha then bitPhase1 w cpol else bitPhase0 w cpol) 8
        (loadUnit ((s.srTx &&& 0xFFFFFF00) ||| tx.setWidth 32) 8 s)) := by
    cases cpha
    · exact replays_shiftBits (fun b u hu => h.replays_bitPhase0 w cpol b hu) (sameUnit_bitPhase0 w cpol) 8 _ hc
    · exact replays_shiftBits (fun b u hu => h.replays_bitPhase1 w cpol b hu) (sameUnit_bitPhase1 w cpol) 8 _ hc
  exact (hbits.after (s := s) rfl rfl rfl rfl).trans (replays_endUnit _)

theorem WireEvents.replays_shiftWord (h : WireEvents c P) (cs : Slot) (cpol : Bool) (count : BitVec 6) (tx : Word)
    {s : State} (hc : s.cfg = c) : Replays P s (shiftWord cs cpol count tx s).2 := by
  have hbits := replays_shiftBits (fun b u hu => h.replays_bitHw cpol b hu) (sameUnit_bitHw cpol) count.toNat
    (loadUnit tx count { s with hwCtrl := (encode (.shiftWord cs cpol count tx)).header }) hc
  exact (hbits.after (s := s) rfl rfl rfl rfl).trans (replays_endUnit _)

/-! ### One Transfer (R110) -/

/-- The events of an XFER of `t` on the platform `c`: levels of SCK and MOSI, samples, delays, byte reads, and byte
stores into the rx buffer, none in verify mode or without one. -/
inductive XferEvent (c : Config) (t : Transfer) : Event → Prop where
  | sck (v : Bool) : XferEvent c t (levelEvent c.sck v)
  | mosi (v : Bool) : XferEvent c t (levelEvent c.mosi v)
  | sample (m : Word) : XferEvent c t (.lineGet m)
  | delay (ns : Word) : XferEvent c t (.delay ns)
  | read (a v : Word) : XferEvent c t (.memRead a 1 v)
  | store (k : Nat) (v : Word) : t.verify = false → t.rxPtr ≠ 0 → k < t.len.toNat →
      XferEvent c t (.memWrite (t.rxPtr + BitVec.ofNat 32 k) 1 v)

theorem wireEvents_xfer (c : Config) (t : Transfer) : WireEvents c (XferEvent c t) := ⟨.sck, .mosi, .sample, .delay⟩

theorem replays_txByte (t : Transfer) (n : Nat) (s : State) : Replays (XferEvent c t) s (txByte t n s).2 := by
  unfold txByte
  split
  · exact .refl s
  · exact replays_memRead1 _ s (.read _)

theorem replays_txWord (t : Transfer) (n : Nat) (s : State) : Replays (XferEvent c t) s (txWord t n s).2 := by
  unfold txWord
  split
  · exact .refl s
  · exact (replays_memRead1 _ s (.read _)).trans <| (replays_memRead1 _ _ (.read _)).trans <|
      (replays_memRead1 _ _ (.read _)).trans (replays_memRead1 _ _ (.read _))

theorem replays_rxWord {t : Transfer} {n : Nat} (r : Word) (s : State) (hv : t.verify = false)
    (hn : n + 4 ≤ t.len.toNat) : Replays (XferEvent c t) s (rxWord t n r s) := by
  unfold rxWord
  split
  · exact .refl s
  · rename_i hrx
    have hstore : ∀ k, k < t.len.toNat → ∀ v, XferEvent c t (.memWrite (t.rxPtr + BitVec.ofNat 32 k) 1 v) :=
      fun k hk v => .store k v hv hrx hk
    exact (replays_memWrite1 _ _ s (hstore n (by omega))).trans <|
      (replays_memWrite1 _ _ _ (hstore (n + 1) (by omega))).trans <|
        (replays_memWrite1 _ _ _ (hstore (n + 2) (by omega))).trans
          (replays_memWrite1 _ _ _ (hstore (n + 3) (by omega)))

theorem replays_fastLoop (d : Slot) {t : Transfer} (hv : t.verify = false) : ∀ k n s, s.cfg = c →
    n + 4 * k ≤ t.len.toNat → Replays (XferEvent c t) s (fastLoop d t k n s).state
  | 0, _, s, _, _ => .refl s
  | k + 1, n, s, hc, hn => by
    have htx : (txWord t n (setBi n s)).2.cfg = c := (sameTransfer_txWord t n _).cfg.trans hc
    have hunit : SameTransfer s
        (shiftWord d s.latch.cpol 32 (txWord t n (setBi n s)).1 (txWord t n (setBi n s)).2).2 :=
      (sameTransfer_setBi n s).trans <| (sameTransfer_txWord t n _).trans (sameUnit_shiftWord ..).toTransfer
    have hword : Replays (XferEvent c t) s
        (shiftWord d s.latch.cpol 32 (txWord t n (setBi n s)).1 (txWord t n (setBi n s)).2).2 :=
      (replays_setBi n s).trans <| (replays_txWord t n _).trans
        ((wireEvents_xfer c t).replays_shiftWord _ _ _ _ htx)
    simp only [fastLoop]
    split
    · exact hword
    · exact hword.trans <| (replays_rxWord _ _ hv (by omega)).trans
        (replays_fastLoop d hv k _ _ (((sameTransfer_rxWord t n _ _).cfg.trans hunit.cfg).trans hc) (by omega))

theorem replays_byteLoop (t : Transfer) : ∀ k n s, s.cfg = c → n + k ≤ t.len.toNat →
    Replays (XferEvent c t) s (byteLoop t k n s).state
  | 0, _, s, _, _ => .refl s
  | k + 1, n, s, hc, hn => by
    have htx : (txByte t n (setBi n s)).2.cfg = c := (sameTransfer_txByte t n _).cfg.trans hc
    have hunit : SameTransfer s
        (shiftByte s.latch.cpha s.latch.cpol (decide (t.rxPtr ≠ 0)) (txByte t n (setBi n s)).1
          (txByte t n (setBi n s)).2).2 :=
      (sameTransfer_setBi n s).trans <| (sameTransfer_txByte t n _).trans (sameUnit_shiftByte ..).toTransfer
    have hbyte : Replays (XferEvent c t) s
        (shiftByte s.latch.cpha s.latch.cpol (decide (t.rxPtr ≠ 0)) (txByte t n (setBi n s)).1
          (txByte t n (setBi n s)).2).2 :=
      (replays_setBi n s).trans <| (replays_txByte t n _).trans
        ((wireEvents_xfer c t).replays_shiftByte _ _ _ _ htx)
    have hcfg := hunit.cfg.trans hc
    simp only [byteLoop]
    split
    · have hread := hbyte.trans (replays_memRead1 (t.rxPtr + BitVec.ofNat 32 n) _ (.read _))
      split
      · exact hread.trans (replays_byteLoop t k _ _ hcfg (by omega))
      · exact hread
    · rename_i hv
      split
      · rename_i hrx
        have hstore : ∀ v, XferEvent c t (.memWrite (t.rxPtr + BitVec.ofNat 32 n) 1 v) := fun v =>
          .store n v (Bool.eq_false_iff.2 hv) (of_decide_eq_true hrx) (by omega)
        exact hbyte.trans <| (replays_memWrite1 _ _ _ hstore).trans (replays_byteLoop t k _ _ hcfg (by omega))
      · exact hbyte.trans (replays_byteLoop t k _ _ hcfg (by omega))

/-- The loop of chunks stops where it ended, inside the bytes it was given. -/
theorem n_fastLoop (d : Slot) (t : Transfer) : ∀ k n s, (fastLoop d t k n s).n ≤ n + 4 * k
  | 0, n, _ => Nat.le_refl n
  | k + 1, n, s => by
    simp only [fastLoop]
    split
    · exact Nat.le_add_right _ _
    · exact (n_fastLoop d t k (n + 4) _).trans (by omega)

/-- XFER takes the fast path only without verify (R107). -/
theorem fastOk_verify {d : Slot} {t : Transfer} {s : State} (h : fastOk d t s = true) : t.verify = false :=
  ((fastOk_iff d t s).1 h).2.2.2.2.2.2.1

theorem replays_xfer (d : Slot) (t : Transfer) (s : State) : Replays (XferEvent s.cfg t) s (xfer d t s).2 := by
  have hfast : Replays (XferEvent s.cfg t) s (fastPart d t s).state ∧ (fastPart d t s).n ≤ t.len.toNat := by
    unfold fastPart
    split
    · rename_i h
      exact ⟨replays_fastLoop d (fastOk_verify h) _ _ s rfl (by omega), (n_fastLoop d t _ _ s).trans (by omega)⟩
    · exact ⟨.refl s, Nat.zero_le _⟩
  have hbytes : Replays (XferEvent s.cfg t) (fastPart d t s).state (bytePart t (fastPart d t s)).state := by
    unfold bytePart
    split
    · exact .refl _
    · exact replays_byteLoop t _ _ _ (sameTransfer_fastPart d t s).cfg (by have := hfast.2; omega)
  exact (hfast.1.trans hbytes).trans (replays_setBi 0 _)

end Sys2Proof.Machine
end

section
/-! SUPPORT. Every operation replays its events, and what a MemWrite of them does not store stays (spec/20_memory.md R41);
the frame of PROCESS_MSG (spec/43_cs_sequencer.md R139 *State written*). -/

namespace Sys2Proof.Machine

/-! ### Stores inside the address space (R41, R48) -/

/-- A MemWrite stores one or four bytes inside the address space. -/
def StoreInBounds : Event → Prop
  | .memWrite a n _ => (n = 1 ∨ n = 4) ∧ a.toNat + n ≤ 2 ^ 32
  | _ => True

theorem storeInBounds_byte (a v : Word) : StoreInBounds (.memWrite a 1 v) := ⟨.inl rfl, a.isLt⟩

/-- A byte an event does not store stays. -/
theorem read_replayEvent {e : Event} {a : Nat} (m : Memory) (hb : StoreInBounds e) (hs : storesAt a e = false) :
    (replayEvent m e).read a = m.read a := by
  cases e with
  | memWrite x n v =>
    obtain ⟨hn, hx⟩ := hb
    have hout : ¬ (x.toNat ≤ a ∧ a < x.toNat + n) := of_decide_eq_false hs
    rcases hn with rfl | rfl
    · exact read_write_other _ _ _ _ (by omega)
    · exact (read_memWrite4 v { State.reset with mem := m } hx).2 a (by omega)
  | lineSet high low => rfl
  | lineDir mask dir => rfl
  | lineGet mask => rfl
  | delay ns => rfl
  | memRead x n v => rfl
  | complete r => rfl

/-- A byte none of the events stores stays. -/
theorem read_foldl_replayEvent {a : Nat} : ∀ (l : List Event) (m : Memory), (∀ e ∈ l, StoreInBounds e) →
    (∀ e ∈ l, storesAt a e = false) → (l.foldl replayEvent m).read a = m.read a
  | [], _, _, _ => rfl
  | e :: l, m, hb, hs => by
    obtain ⟨hbe, hbl⟩ := List.forall_mem_cons.1 hb
    obtain ⟨hse, hsl⟩ := List.forall_mem_cons.1 hs
    exact (read_foldl_replayEvent l _ hbl hsl).trans (read_replayEvent m hbe hse)

/-- A byte that no event with `P` stores stays. -/
theorem Replays.read_eq {P : Event → Prop} {s t : State} (h : Replays P s t) (hb : ∀ e, P e → StoreInBounds e) {a : Nat}
    (hs : ∀ e, P e → storesAt a e = false) : t.mem.read a = s.mem.read a := by
  obtain ⟨l, hl, hP⟩ := h
  rw [hl.mem]
  exact read_foldl_replayEvent l _ (fun e he => hb e (hP e he)) fun e he => hs e (hP e he)

theorem XferEvent.storeInBounds {c : Config} {t : Transfer} {e : Event} (h : XferEvent c t e) : StoreInBounds e := by
  cases h
  case store => exact storeInBounds_byte _ _
  all_goals trivial

/-! ### Messages (R136 to R143) -/

theorem replays_csTo (d : Slot) (v : Bool) (s : State) : Replays StoreInBounds s (csTo d v s) :=
  replays_lineTo _ v s trivial

theorem replays_setupHook (d : Slot) (s : State) : Replays StoreInBounds s (setupHook d s) := by
  unfold setupHook
  simp only
  split
  · exact .refl s
  · exact replays_lineSet _ _ s trivial

theorem replays_teardownHook (d : Slot) (s : State) : Replays StoreInBounds s (teardownHook d s) := by
  have hundone : Replays StoreInBounds s (if (s.cfg.slot d).auxHigh ||| (s.cfg.slot d).auxLow = 0 then s
      else lineSet (s.cfg.slot d).auxLow (s.cfg.slot d).auxHigh s) := by
    split
    · exact .refl s
    · exact replays_lineSet _ _ s trivial
  unfold teardownHook
  simp only
  split
  · exact hundone
  · exact hundone.trans <| (replays_lineSet _ _ _ trivial).trans (replays_lineSet _ _ _ trivial)

theorem replays_csAssert (d : Slot) (s : State) : Replays StoreInBounds s (csAssert d s) := by
  have hlatch : Replays StoreInBounds s { s with latch := { cpol := (s.dev d).cpol, cpha := (s.dev d).cpha } } :=
    .of_eq rfl rfl rfl rfl
  exact hlatch.trans <| (replays_lineTo _ _ _ trivial).trans <| (replays_csTo d _ _).trans (replays_setupHook d _)

theorem replays_csDeassert (d : Slot) (s : State) : Replays StoreInBounds s (csDeassert d s) :=
  (replays_csTo d _ s).trans (replays_teardownHook d _)

theorem replays_releaseHeld (h : Option Slot) (s : State) : Replays StoreInBounds s (releaseHeld h s) := by
  cases h
  · exact .refl s
  · exact replays_csDeassert _ s

theorem replays_readTransfer (a : Word) (s : State) : Replays StoreInBounds s (readTransfer a s).2 :=
  (replays_memRead4 _ s fun _ => trivial).trans <| (replays_memRead4 _ _ fun _ => trivial).trans <|
    (replays_memRead4 _ _ fun _ => trivial).trans <| (replays_memRead4 _ _ fun _ => trivial).trans
      (replays_memRead4 _ _ fun _ => trivial)

theorem replays_setSpeedChecked {P : Event → Prop} {hz : Word} {s t : State} (h : setSpeedChecked hz s = .ok t) :
    Replays P s t := by
  rw [setSpeedChecked_ok h]; exact .of_eq rfl rfl rfl rfl

theorem replays_applySpeed {P : Event → Prop} {hz : Word} {s t : State} (h : applySpeed hz s = .ok t) :
    Replays P s t := by
  unfold applySpeed at h
  split at h
  · cases h; exact .refl s
  · exact replays_setSpeedChecked h

theorem replays_runTransfer {d : Slot} {a : Word} {asserted : Bool} {s : State} {t : Transfer} {got : Word}
    {s' : State} (h : runTransfer d a asserted s = .ok (t, got, s')) : Replays StoreInBounds s s' := by
  obtain ⟨selected, timed, -, -, -, hsel, htimed, hx⟩ := runTransfer_ok h
  have hselected : Replays StoreInBounds s selected := by
    rw [hsel]
    split
    · exact replays_readTransfer a s
    · exact (replays_readTransfer a s).trans (replays_csAssert d _)
  obtain rfl : s' = (xfer d t timed).2 := congrArg Prod.snd hx
  exact hselected.trans <| (replays_applySpeed htimed).trans
    ((replays_xfer d t timed).mono fun _ he => he.storeInBounds)

theorem replays_runTransfers {d : Slot} {ptr : Word} :
    ∀ {left xi : Nat} {asserted : Bool} {actual : Word} {s : State} {r : SeqResult} {s' : State},
      runTransfers d ptr left xi asserted actual s = .ok (r, s') → Replays StoreInBounds s s'
  | 0, _, _, _, s, _, _, h => by
    simp only [runTransfers, Except.ok.injEq, Prod.mk.injEq] at h
    exact h.2 ▸ .refl s
  | left + 1, xi, asserted, actual, s, r, s', h => by
    simp only [runTransfers] at h
    split at h
    · cases h
    · rename_i t got u hu
      have hone : Replays StoreInBounds s u := (replays_runTransfer hu).after rfl rfl rfl rfl
      split at h
      · cases h; exact hone.trans (replays_csDeassert d u)
      · split at h
        · exact hone.trans <| (replays_csDeassert d u).trans (replays_runTransfers h)
        · exact hone.trans (replays_runTransfers h)

theorem replays_runMessage {d : Slot} {ptr : Word} {cnt : Nat} {h : Option Slot} {s : State} {r : SeqResult}
    {s' : State} (hr : runMessage d ptr cnt h s = .ok (r, s')) : Replays StoreInBounds s s' := by
  unfold runMessage at hr
  split at hr
  · cases hr; exact replays_releaseHeld h s
  · split at hr
    · cases hr
    · split at hr
      · exact replays_runTransfers hr
      · exact (replays_releaseHeld h s).trans (replays_runTransfers hr)

theorem replays_writeResults {m : Word} (r : SeqResult) (s : State) (h : messageOk s.cfg m = .ok ()) :
    Replays StoreInBounds s (writeResults m r s) := by
  have hb := messageOk_bound h
  obtain ⟨h1, h2⟩ := toNat_resultWords h
  have hstatus : StoreInBounds (.memWrite (m + 0x10) 4 r.status) := ⟨.inr rfl, by omega⟩
  have hactual : StoreInBounds (.memWrite (m + 0x14) 4 r.actual) := ⟨.inr rfl, by omega⟩
  exact (replays_memWrite4 _ _ s hstatus).trans <| (replays_memWrite4 _ _ _ hactual).trans (.of_eq rfl rfl rfl rfl)

theorem replays_processMsg {d : Slot} {m : Word} {h : Option Slot} {s t : State}
    (hp : processMsg d m h s = .ok t) : Replays StoreInBounds s t := by
  obtain ⟨r, u, -, hm, hr, rfl⟩ := processMsg_ok hp
  have hcfg : u.cfg = s.cfg := (sameControl_runMessage hr).cfg
  exact (replays_memRead4 m s fun _ => trivial).trans <| (replays_memRead4 (m + 4) _ fun _ => trivial).trans <|
    (replays_runMessage hr).trans (replays_writeResults r u (hcfg.symm ▸ hm))

/-! ### The dispatcher (R155 to R165) -/

theorem replays_completeMsg {m : Word} {s t : State} (h : completeMsg m s = .ok t) : Replays StoreInBounds s t := by
  obtain ⟨r, u, -, -, rfl, -, rfl⟩ := completeMsg_ok h
  exact (replays_memRead4 (m + 8) s fun _ => trivial).trans <|
    (replays_memRead4 (m + 12) _ fun _ => trivial).trans (.one (e := .complete r) trivial ⟨rfl, rfl, rfl, rfl⟩)

theorem replays_setResult (w : Word) (s : State) : Replays StoreInBounds s (setResult w s) := .of_eq rfl rfl rfl rfl

theorem replays_registerDevice (d : Slot) (mode : Byte) (hz : Word) (s : State) :
    Replays StoreInBounds s (registerDevice d mode hz s) :=
  ((replays_csTo d (!mode.getLsbD 2) (setDev d (registered mode hz) s)).after (s := s) rfl rfl rfl rfl).trans <|
    (replays_lineDir (bit (s.cfg.slot d).cs) .pushPull _ trivial).trans (replays_setResult _ _)

theorem replays_lockRegion (s : State) : Replays StoreInBounds s (lockRegion s) := by
  have hw : Replays StoreInBounds s (writeBack s) := by
    rcases writeBack_eq s with ⟨h, -, heq⟩ | ⟨-, heq⟩ <;> rw [heq] <;> exact .of_eq rfl rfl rfl rfl
  refine hw.trans ?_
  rcases lockRegion_cases s with ⟨-, heq⟩ | ⟨-, -, heq⟩ | ⟨e, rest, -, -, heq⟩ <;> rw [heq] <;>
    exact .of_eq rfl rfl rfl rfl

theorem replays_workerTurn {s t : State} (h : workerTurn s = .ok t) : Replays StoreInBounds s t := by
  refine (replays_lockRegion s).trans ?_
  rcases serveCurrent_ok h with ⟨e, -, -, hserve⟩ | rfl
  · obtain ⟨u, v, hu, hv, rfl⟩ := serve_ok hserve
    exact (replays_processMsg hu).trans <| (replays_completeMsg hv).trans (.of_eq rfl rfl rfl rfl)
  · exact .refl _

theorem replays_callerMove {s t : State} (h : callerMove s = .ok t) : Replays StoreInBounds s t := by
  rcases callerMove_ok h with ⟨hazard, e, -, -, hp⟩ | ⟨r, -, rfl⟩ | rfl
  · obtain ⟨u, hu, rfl⟩ := processAtomic_ok hp
    have hrelease : Replays StoreInBounds s (if hazard then releaseHeld s.heldCs s else s) := by
      split
      · exact replays_releaseHeld _ s
      · exact .refl s
    exact hrelease.trans <| (replays_processMsg hu).trans (.of_eq rfl rfl rfl rfl)
  · obtain ⟨raced, heq⟩ := writeBackAtomic_eq r s
    rw [heq]; exact .of_eq rfl rfl rfl rfl
  · exact .refl _

theorem replays_runAtomic {d : Slot} {m : Word} {s t : State} (h : runAtomic d m s = .ok t) :
    Replays StoreInBounds s t := by
  obtain ⟨s1, s2, s3, h1, h2, h3, rfl⟩ := runAtomic_ok h
  obtain ⟨-, -, -, rfl⟩ := admission_ok.1 h1
  obtain ⟨result, answers, heq⟩ := writeAnswer_eq s.answers.length s3
  have hmoves := ((replays_callerMove h2).after (s := s) rfl rfl rfl rfl).trans (replays_callerMove h3)
  rw [heq]
  exact hmoves.trans (.of_eq rfl rfl rfl rfl)

/-! ### Every operation -/

theorem wireEvents_storeInBounds (c : Config) : WireEvents c StoreInBounds :=
  ⟨fun _ => trivial, fun _ => trivial, fun _ => trivial, fun _ => trivial⟩

/-- Every operation replays its events. -/
theorem replays_exec {i : Instr} {s t : State} (h : exec i s = .next t) : Replays StoreInBounds s t := by
  have wire := wireEvents_storeInBounds s.cfg
  cases i with
  | regdev dev bpw mode hz =>
    rcases execRegdev_next h with ⟨e, rfl⟩ | ⟨-, -, -, -, rfl⟩
    · exact .of_eq rfl rfl rfl rfl
    · exact replays_registerDevice dev mode hz s
  | submit dev msg => rcases execSubmit_next h with ⟨e, rfl⟩ | ⟨-, -, rfl⟩ <;> exact .of_eq rfl rfl rfl rfl
  | submitAtomic dev msg =>
    rcases execSubmitAtomic_next h with ⟨e, rfl⟩ | hrun
    · exact .of_eq rfl rfl rfl rfl
    · exact replays_runAtomic hrun
  | gpioSet high low =>
    obtain ⟨-, rfl⟩ := execGpioSet_next h
    exact replays_lineSet high low s trivial
  | gpioGet => cases h; exact (replays_lineGet s trivial).trans (.of_eq rfl rfl rfl rfl)
  | gpioDir direction mask =>
    obtain ⟨-, dir, rfl⟩ := execGpioDir_next h
    exact replays_lineDir mask dir s trivial
  | delay ns => cases h; exact replays_waitNs ns s trivial
  | shiftByte cpha cpol wantRx tx =>
    obtain ⟨ret, rfl⟩ := execShiftByte_next h
    exact (wire.replays_shiftByte cpha cpol wantRx tx rfl).trans (.of_eq rfl rfl rfl rfl)
  | shiftWord cs cpol count tx =>
    obtain ⟨ret, rfl⟩ := execShiftWord_next h
    exact (wire.replays_shiftWord cs cpol count tx rfl).trans (.of_eq rfl rfl rfl rfl)
  | xfer dev desc =>
    obtain ⟨ret, rfl⟩ := execXfer_next h
    exact ((replays_xfer dev _ s).mono fun _ he => he.storeInBounds).trans (.of_eq rfl rfl rfl rfl)
  | setSpeed hz => exact replays_setSpeedChecked (outcome_eq_next.1 h)
  | csAssert dev => rw [guarded_eq_next h]; exact replays_csAssert dev s
  | csDeassert dev => rw [guarded_eq_next h]; exact replays_csDeassert dev s
  | processMsg dev msg => exact replays_processMsg (outcome_eq_next.1 h)
  | workerStep =>
    rcases execWorkerStep_next h with ⟨-, hturn⟩ | ⟨-, rfl⟩
    · exact replays_workerTurn hturn
    · exact .refl _
  | complete dev msg => exact replays_completeMsg (execComplete_next h)

/-! ### Transfers keep what is outside their rx buffers (R45, R48, R110) -/

/-- The parts of R48 for a transfer descriptor. -/
theorem transfer_ok {c : Config} {t : Transfer} (h : t.ok c = true) :
    (t.verify = true → t.rxPtr ≠ 0) ∧ (t.txPtr = 0 ∨ t.txPtr.toNat + t.len.toNat ≤ 2 ^ 32) ∧
      (t.rxPtr = 0 ∨ t.rxPtr.toNat + t.len.toNat ≤ 2 ^ 32) := by
  unfold Transfer.ok bufferOk at h
  simp only [Bool.and_eq_true, Bool.or_eq_true, decide_eq_true_eq, Bool.not_eq_true'] at h
  obtain ⟨⟨⟨-, hverify⟩, htx⟩, hrx⟩ := h
  exact ⟨fun hv => hverify.resolve_left (by simp [hv]), htx.imp_right rangeOk_bound, hrx.imp_right rangeOk_bound⟩

/-- An event of an XFER stores inside the rx buffer only. -/
theorem XferEvent.storesAt_eq_false {c : Config} {t : Transfer} (hrx : t.rxPtr = 0 ∨ t.rxPtr.toNat + t.len.toNat ≤ 2 ^ 32)
    {a : Nat} (ha : outsideRx t a) {e : Event} (h : XferEvent c t e) : storesAt a e = false := by
  cases h
  case store k v hv hne hk =>
    have hfit := hrx.resolve_left hne
    have haddr : (t.rxPtr + BitVec.ofNat 32 k).toNat = t.rxPtr.toNat + k := toNat_add_ofNat (by omega)
    have hout : a < t.rxPtr.toNat ∨ t.rxPtr.toNat + t.len.toNat ≤ a := by
      rcases ha with hver | hzero | hout | hout
      · rw [hver] at hv; cases hv
      · exact absurd hzero hne
      · exact .inl hout
      · exact .inr hout
    exact decide_eq_false (by rw [haddr]; omega)
  all_goals rfl

/-- XFER leaves every byte outside its rx buffer as it was. -/
theorem read_xfer {d : Slot} {t : Transfer} {s : State} {c : Config} (hok : t.ok c = true) {a : Nat}
    (ha : outsideRx t a) : (xfer d t s).2.mem.read a = s.mem.read a :=
  (replays_xfer d t s).read_eq (fun _ he => he.storeInBounds) fun _ he => he.storesAt_eq_false (transfer_ok hok).2.2 ha

/-! ### What a Message has kept before its `k`-th Transfer -/

/-- The array of the Message's transfer descriptors lies below `2^32`, no byte is raced and no Transfer stores into a
later descriptor (R48, R57, R58). -/
structure ArrayKept (s : State) (m : Word) : Prop where
  notRaced : s.raced = []
  bound : (s.wordAt m).toNat + 20 * s.transferCount m ≤ 2 ^ 32
  kept : descriptorsKept s m

/-- `x` is reached from `s` with the first `k` Transfers executed: control is as it was, and so is memory outside their
rx buffers. -/
structure KeptBefore (s : State) (m : Word) (k : Nat) (x : State) : Prop where
  control : SameControl s x
  memory : ∀ a : Nat, (∀ j < k, outsideRx (s.transferOf m j) a) → x.mem.read a = s.mem.read a

theorem KeptBefore.of_mem {s x y : State} {m : Word} {k : Nat} (h : KeptBefore s m k x) (hc : SameControl x y)
    (hm : y.mem = x.mem) : KeptBefore s m k y :=
  ⟨h.control.trans hc, fun a ha => hm ▸ h.memory a ha⟩

/-- The words of a descriptor that memory holds as `s` does. -/
theorem transferAt_congr {s x : State} (hs : s.raced = []) (hx : x.raced = []) {a : Word} (ha : a.toNat + 20 ≤ 2 ^ 32)
    (h : ∀ i < 20, x.mem.read (a.toNat + i) = s.mem.read (a.toNat + i)) : transferAt a x = transferAt a s := by
  have hword : ∀ k ≤ 16, x.memWord (a + BitVec.ofNat 32 k) = s.memWord (a + BitVec.ofNat 32 k) := fun k hk => by
    have hk' : (a + BitVec.ofNat 32 k).toNat = a.toNat + k := toNat_add_ofNat (by omega)
    refine memWord_congr (by omega) fun i hi => ?_
    rw [hk', Nat.add_assoc]
    exact h (k + i) (by omega)
  have h0 : x.memWord a = s.memWord a := memWord_congr (by omega) fun i hi => h i (by omega)
  have h4 : x.memWord (a + 4) = s.memWord (a + 4) := hword 4 (by omega)
  have h8 : x.memWord (a + 8) = s.memWord (a + 8) := hword 8 (by omega)
  have h12 : x.memWord (a + 12) = s.memWord (a + 12) := hword 12 (by omega)
  have h16 : x.memWord (a + 16) = s.memWord (a + 16) := hword 16 (by omega)
  simp only [transferAt, wordAt_eq_memWord hs, wordAt_eq_memWord hx, h0, h4, h8, h12, h16]

/-- The address of the `k`-th descriptor of an array below `2^32`. -/
theorem ArrayKept.toNat_addr {s : State} {m : Word} (h : ArrayKept s m) {k : Nat} (hk : k < s.transferCount m) :
    (s.transferAddr m k).toNat = (s.wordAt m).toNat + 20 * k := toNat_add_ofNat (by have := h.bound; omega)

/-- The `k`-th descriptor is what it was at the start, when the first `k` Transfers are executed. -/
theorem KeptBefore.transferAt {s x : State} {m : Word} {k : Nat} (h : KeptBefore s m k x) (ha : ArrayKept s m)
    (hk : k < s.transferCount m) : transferAt (s.transferAddr m k) x = s.transferOf m k := by
  have haddr := ha.toNat_addr hk
  have hbound := ha.bound
  refine transferAt_congr ha.notRaced (h.control.raced.trans ha.notRaced) (by omega) fun i hi => ?_
  exact h.memory _ fun j hj => ha.kept k hk j hj i hi

/-- With no byte raced, the words PROCESS_MSG reads of a descriptor are those memory holds (R57, R58). -/
theorem readTransfer_eq {a : Word} {s : State} (h : s.raced = []) :
    readTransfer a s = (transferAt a s, { s with
      draws := s.draws + 5
      trace := s.trace ++ [.memRead a 4 (s.wordAt a), .memRead (a + 4) 4 (s.wordAt (a + 4)),
        .memRead (a + 8) 4 (s.wordAt (a + 8)), .memRead (a + 12) 4 (s.wordAt (a + 12)),
        .memRead (a + 16) 4 (s.wordAt (a + 16))] }) := by
  have hword : ∀ (trace : List Event) (draws : Nat) (b : Word),
      ({ s with draws := draws, trace := trace } : State).wordAt b = s.wordAt b := fun trace draws b =>
    wordAt_congr (t := { s with draws := draws, trace := trace }) h h rfl b
  simp [readTransfer, memRead4_eq, hword, transferAt]

/-- After the `k`-th Transfer, which read the descriptor memory held at the start, memory has changed in its rx buffer
at most. -/
theorem KeptBefore.runTransfer {s x y : State} {d : Slot} {m : Word} {k : Nat} {asserted : Bool} {t : Transfer}
    {got : Word} (h : KeptBefore s m k x) (ha : ArrayKept s m) (hk : k < s.transferCount m)
    (hr : runTransfer d (s.transferAddr m k) asserted x = .ok (t, got, y)) :
    t = s.transferOf m k ∧ t.ok s.cfg = true ∧ KeptBefore s m (k + 1) y := by
  obtain ⟨selected, timed, rfl, -, hok, hsel, htimed, hx⟩ := runTransfer_ok hr
  have hread := readTransfer_eq (a := s.transferAddr m k) (h.control.raced.trans ha.notRaced)
  have ht : (readTransfer (s.transferAddr m k) x).1 = s.transferOf m k := by rw [hread]; exact h.transferAt ha hk
  rw [ht] at htimed hx hok ⊢
  have hselected : selected.mem = x.mem := by
    rw [hsel, csAssert_eq, hread]; split <;> rfl
  have htimed' : timed.mem = selected.mem := by
    unfold applySpeed at htimed
    split at htimed
    · cases htimed; rfl
    · rw [setSpeedChecked_ok htimed]; rfl
  obtain rfl : y = (xfer d (s.transferOf m k) timed).2 := congrArg Prod.snd hx
  refine ⟨rfl, h.control.cfg ▸ hok, h.control.trans (sameControl_runTransfer hr), fun a hout => ?_⟩
  rw [read_xfer hok (hout k (Nat.lt_succ_self k)), htimed', hselected]
  exact h.memory a fun j hj => hout j (Nat.lt_succ_of_lt hj)

theorem mem_csDeassert (d : Slot) (s : State) : (csDeassert d s).mem = s.mem := by rw [csDeassert_eq]

theorem mem_releaseHeld (h : Option Slot) (s : State) : (releaseHeld h s).mem = s.mem := by
  obtain ⟨out, heq⟩ := releaseHeld_eq h s
  rw [heq]

/-- The Transfers of a Message leave every byte outside their rx buffers as it was. -/
theorem KeptBefore.runTransfers {s : State} {d : Slot} {m : Word} (ha : ArrayKept s m) :
    ∀ {left k : Nat} {asserted : Bool} {actual : Word} {x : State} {r : SeqResult} {y : State},
      k + left = s.transferCount m → KeptBefore s m k x →
      Machine.runTransfers d (s.wordAt m) left k asserted actual x = .ok (r, y) →
      ∀ a : Nat, (∀ j < s.transferCount m, outsideRx (s.transferOf m j) a) → y.mem.read a = s.mem.read a
  | 0, k, _, _, x, _, _, hk, h, hr => by
    simp only [Machine.runTransfers, Except.ok.injEq, Prod.mk.injEq] at hr
    obtain ⟨-, rfl⟩ := hr
    exact fun a hout => h.memory a fun j hj => hout j (by omega)
  | left + 1, k, _, _, x, _, _, hk, h, hr => by
    have hx : KeptBefore s m k (setXi k x) := h.of_mem (sameControl_setXi k x) rfl
    simp only [Machine.runTransfers] at hr
    split at hr
    · cases hr
    · rename_i t got u hu
      obtain ⟨-, -, hone⟩ := hx.runTransfer ha (by omega) hu
      have hreleased := hone.of_mem (sameControl_csDeassert d u) (mem_csDeassert d u)
      split at hr
      · cases hr
        exact fun a hout => hreleased.memory a fun j hj => hout j (by omega)
      · split at hr
        · exact hreleased.runTransfers ha (by omega) hr
        · exact hone.runTransfers ha (by omega) hr

/-- The two words PROCESS_MSG reads first, with no byte raced (R44, R57). -/
theorem memRead4_first {s : State} (m : Word) (h : s.raced = []) :
    (memRead4 m s).1 = s.wordAt m ∧ (memRead4 (m + 4) (memRead4 m s).2).1 = s.wordAt (m + 4) :=
  ⟨rfl, wordAt_congr (t := (memRead4 m s).2) h h rfl (m + 4)⟩

/-- Settles O33: the control fields are those of `SameControl`, memory is what the events replay, and each Transfer
stores into its own rx buffer. -/
theorem messageFrame : Obligations.MessageFrame := by
  refine ⟨fun s t d m h => ?frame, fun i s t h a hs => ?events, fun s t d m hraced hkept h a hres hout => ?buffers⟩
  case frame =>
    have hc := processMsg_control (outcome_eq_next.1 h)
    cases s; cases t; cases hc
    simp_all
  case events =>
    obtain ⟨l, hl, hb⟩ := replays_exec h
    rw [hl.trace, List.drop_left] at hs
    rw [hl.mem]
    exact read_foldl_replayEvent l _ hb hs
  case buffers =>
    obtain ⟨r, u, -, hm, hr, rfl⟩ := processMsg_ok (outcome_eq_next.1 h)
    obtain ⟨hptr, hcnt⟩ := memRead4_first m hraced
    rw [hptr, hcnt] at hr
    have hcfg : u.cfg = s.cfg := (sameControl_runMessage hr).cfg
    obtain ⟨-, -, hother⟩ := read_writeResults r u (hcfg.symm ▸ hm)
    refine (hother a hres).trans ?_
    have hstart : KeptBefore s m 0 (memRead4 (m + 4) (memRead4 m s).2).2 :=
      ⟨(sameControl_memRead4 m s).trans (sameControl_memRead4 (m + 4) _), fun _ _ => rfl⟩
    have hreleased := hstart.of_mem (sameControl_releaseHeld s.heldCs _) (mem_releaseHeld s.heldCs _)
    unfold runMessage at hr
    split at hr
    · cases hr; exact hreleased.memory a fun j hj => absurd hj (Nat.not_lt_zero j)
    · split at hr
      · cases hr
      · rename_i harray
        have hbound : (s.wordAt m).toNat + 20 * s.transferCount m ≤ 2 ^ 32 := by
          rw [Bool.not_eq_true, Bool.not_eq_false', transfersOk, Bool.and_eq_true] at harray
          exact of_decide_eq_true harray.2
        have hkeep : ArrayKept s m := ⟨hraced, hbound, hkept⟩
        split at hr
        · exact hstart.runTransfers hkeep (Nat.zero_add _) hr a hout
        · exact hreleased.runTransfers hkeep (Nat.zero_add _) hr a hout

end Sys2Proof.Machine
end

section
/-! SUPPORT. What one unit on the wire puts on the lines, takes from the environment and returns (spec/41_bit_engine.md
R101 to R106), for any number of bits. -/

namespace Sys2Proof.Machine

/-! ### The events of a run (R7) -/

/-- The events `t` has beyond those of `s`. -/
def eventsSince (s t : State) : List Event := t.trace.drop s.trace.length

theorem eventsSince_of_append {s t : State} {l : List Event} (h : t.trace = s.trace ++ l) : eventsSince s t = l := by
  rw [eventsSince, h, List.drop_left]

theorem eventsSince_self (s : State) : eventsSince s s = [] := List.drop_length

theorem trace_eq_eventsSince {s t : State} (h : s.trace <+: t.trace) : t.trace = s.trace ++ eventsSince s t := by
  obtain ⟨l, hl⟩ := h
  rw [eventsSince_of_append hl.symm, hl]

theorem eventsSince_trans {s t u : State} (h : s.trace <+: t.trace) (k : t.trace <+: u.trace) :
    eventsSince s u = eventsSince s t ++ eventsSince t u :=
  eventsSince_of_append (by rw [← List.append_assoc, ← trace_eq_eventsSince h, ← trace_eq_eventsSince k])

theorem levelsSince_eq (n : Nat) (s t : State) : levelsSince n s t = (eventsSince s t).filterMap (levelOf n) := rfl

/-- The event itself when it is a delay. -/
def delayOf (e : Event) : Option Event := if isDelay e then some e else none

theorem filter_isDelay (l : List Event) : l.filter isDelay = l.filterMap delayOf := by
  rw [← List.filterMap_eq_filter]
  refine congrArg (List.filterMap · l) (funext fun e => ?_)
  unfold delayOf Option.guard
  rfl

theorem delaysSince_eq (s t : State) : delaysSince s t = (eventsSince s t).filterMap delayOf := filter_isDelay _

/-! ### Levels of one line (R90, R97) -/

theorem levelOf_levelEvent {n : Nat} (hn : n < 32) (m : Nat) (v : Bool) :
    levelOf n (levelEvent m v) = if m = n then some v else none := by
  unfold levelOf levelEvent
  cases v <;> simp [getLsbD_bit m n hn, -BitVec.getLsbD_eq_getElem]

theorem filterMap_levelEvent {n : Nat} (hn : n < 32) (m : Nat) (v : Bool) (l : List Event) :
    (levelEvent m v :: l).filterMap (levelOf n) = (if m = n then [v] else []) ++ l.filterMap (levelOf n) := by
  rw [List.filterMap_cons, levelOf_levelEvent hn]
  by_cases h : m = n <;> simp [h]

theorem filterMap_delayEvents_levelOf (n : Nat) (ns : Word) : (delayEvents ns).filterMap (levelOf n) = [] := by
  unfold delayEvents; split <;> rfl

theorem filterMap_delayEvents_delayOf (ns : Word) : (delayEvents ns).filterMap delayOf = delayEvents ns := by
  unfold delayEvents; split <;> rfl

theorem filterMap_sample {α : Type} {f : Event → Option α} {m : Word} (h : f (.lineGet m) = none) (w : Bool) :
    (if w then [Event.lineGet m] else []).filterMap f = [] := by
  cases w
  · rfl
  · simp [h]

/-- The events of one bit of a byte, in either clock phase. -/
def bitEvents (cpha : Bool) (c : Config) (ns : Word) (w cpol b : Bool) (m : Word) : List Event :=
  if cpha then bitEvents1 c ns w cpol b m else bitEvents0 c ns w cpol b m

section
variable {c : Config} (cpha : Bool) (ns : Word) (w cpol b : Bool) (m : Word)

/-- The lines one bit drives, in terms of any one line below 32. -/
theorem levels_bitEvents {n : Nat} (hn : n < 32) :
    (bitEvents cpha c ns w cpol b m).filterMap (levelOf n) =
      if cpha then (if c.sck = n then [!cpol] else []) ++ ((if c.mosi = n then [b] else []) ++ (if c.sck = n then [cpol] else []))
      else (if c.mosi = n then [b] else []) ++ ((if c.sck = n then [!cpol] else []) ++ (if c.sck = n then [cpol] else [])) := by
  cases cpha <;>
    simp only [bitEvents, bitEvents0, bitEvents1, Bool.false_eq_true, if_false, if_true, List.filterMap_append,
      filterMap_levelEvent hn, List.filterMap_nil, filterMap_delayEvents_levelOf,
      filterMap_sample (f := levelOf n) (m := m) rfl, List.append_nil, List.append_assoc, List.nil_append]

theorem levels_bitEventsHw {n : Nat} (hn : n < 32) :
    (bitEventsHw c cpol b m).filterMap (levelOf n) =
      (if c.mosi = n then [b] else []) ++ ((if c.sck = n then [!cpol] else []) ++ (if c.sck = n then [cpol] else [])) := by
  have hget : ∀ l, (Event.lineGet m :: l).filterMap (levelOf n) = l.filterMap (levelOf n) := fun _ => rfl
  simp only [bitEventsHw, filterMap_levelEvent hn, hget, List.filterMap_nil, List.append_nil]

theorem sck_bitEvents (hc : c.wf = true) :
    (bitEvents cpha c ns w cpol b m).filterMap (levelOf c.sck) = [!cpol, cpol] := by
  obtain ⟨hsck, -, -, hne, -⟩ := Config.wf_bus hc
  rw [levels_bitEvents _ _ _ _ _ _ hsck]
  cases cpha <;> simp [hne.symm]

theorem mosi_bitEvents (hc : c.wf = true) : (bitEvents cpha c ns w cpol b m).filterMap (levelOf c.mosi) = [b] := by
  obtain ⟨-, hmosi, -, hne, -⟩ := Config.wf_bus hc
  rw [levels_bitEvents _ _ _ _ _ _ hmosi]
  cases cpha <;> simp [hne]

theorem sck_bitEventsHw (hc : c.wf = true) : (bitEventsHw c cpol b m).filterMap (levelOf c.sck) = [!cpol, cpol] := by
  obtain ⟨hsck, -, -, hne, -⟩ := Config.wf_bus hc
  rw [levels_bitEventsHw _ _ _ hsck]
  simp [hne.symm]

theorem mosi_bitEventsHw (hc : c.wf = true) : (bitEventsHw c cpol b m).filterMap (levelOf c.mosi) = [b] := by
  obtain ⟨-, hmosi, -, hne, -⟩ := Config.wf_bus hc
  rw [levels_bitEventsHw _ _ _ hmosi]
  simp [hne]

theorem delays_bitEvents :
    (bitEvents cpha c ns w cpol b m).filterMap delayOf = delayEvents ns ++ delayEvents ns := by
  cases cpha <;>
    simp [bitEvents, bitEvents0, bitEvents1, levelEvent, filterMap_delayEvents_delayOf,
      filterMap_sample (f := delayOf) (m := m) rfl, delayOf, isDelay]

theorem delays_bitEventsHw : (bitEventsHw c cpol b m).filterMap delayOf = [] := rfl

end

/-! ### The events of a unit (R101) -/

/-- Bits `k-1` down to 0 of `tx`, the order of the wire. -/
def bitsDown (tx : Word) : Nat → List Bool
  | 0 => []
  | k + 1 => tx.getLsbD k :: bitsDown tx k

theorem length_bitsDown (tx : Word) : ∀ k, (bitsDown tx k).length = k
  | 0 => rfl
  | k + 1 => by simp [bitsDown, length_bitsDown tx k]

/-- What a view of the events shows of a unit, when it shows of one bit what depends on that bit alone. -/
theorem filterMap_unitEvents {α : Type} {f : Event → Option α} {one : Bool → Word → List Event} {g : Bool → List α}
    (h : ∀ b m, (one b m).filterMap f = g b) (tx : Word) :
    ∀ (k : Nat) (ms : List Word), (unitEvents one tx k ms).filterMap f = (bitsDown tx k).flatMap g
  | 0, _ => rfl
  | k + 1, ms => by
    rw [unitEvents, List.filterMap_append, h, filterMap_unitEvents h tx k, bitsDown, List.flatMap_cons]

/-- A unit sends the low bits of its word only. -/
theorem unitEvents_congr {one : Bool → Word → List Event} {tx tx' : Word} : ∀ (k : Nat) (ms : List Word),
    (∀ i < k, tx.getLsbD i = tx'.getLsbD i) → unitEvents one tx k ms = unitEvents one tx' k ms
  | 0, _, _ => rfl
  | k + 1, ms, h => by
    rw [unitEvents, unitEvents, h k (Nat.lt_succ_self k),
      unitEvents_congr k ms.tail fun i hi => h i (Nat.lt_succ_of_lt hi)]

theorem flatMap_const {α β : Type} (g : List β) : ∀ l : List α, (l.flatMap fun _ => g) = (List.replicate l.length g).flatten
  | [] => rfl
  | _ :: l => by simp [List.replicate_succ, flatMap_const g l]

/-- A byte in wire order is its bits from the highest down. -/
theorem bitsDown_byte (b : Byte) : bitsDown (b.setWidth 32) 8 = wireBits b := by
  simp [bitsDown, wireBits, BitVec.getLsbD_setWidth, -BitVec.getLsbD_eq_getElem]

theorem getLsbD_packWord (b0 b1 b2 b3 : Byte) (i : Nat) :
    (packWord b0 b1 b2 b3).getLsbD i =
      if i < 8 then b3.getLsbD i else if i < 16 then b2.getLsbD (i - 8) else if i < 24 then b1.getLsbD (i - 16)
      else b0.getLsbD (i - 24) := by
  show (b0 ++ b1 ++ b2 ++ b3).getLsbD i = _
  simp only [BitVec.getLsbD_append, Nat.sub_sub]
  by_cases h8 : i < 8
  · simp [h8]
  · by_cases h16 : i < 16
    · simp [h8, h16, show i - 8 < 8 by omega]
    · by_cases h24 : i < 24
      · simp [h8, h16, h24, show ¬ i - 8 < 8 by omega, show i - 16 < 8 by omega]
      · simp [h8, h16, h24, show ¬ i - 8 < 8 by omega, show ¬ i - 16 < 8 by omega]

/-- A fast-path word in wire order is its four bytes, lowest address first (R46, R108). -/
theorem bitsDown_packWord (b0 b1 b2 b3 : Byte) :
    bitsDown (packWord b0 b1 b2 b3) 32 = wireBits b0 ++ wireBits b1 ++ wireBits b2 ++ wireBits b3 := by
  simp [bitsDown, wireBits, getLsbD_packWord, -BitVec.getLsbD_eq_getElem]

/-! ### The answers of the environment (R92, R101) -/

/-- While the script lasts, the answers are its words, cut to own lines. -/
theorem samples_of_script : ∀ (n : Nat) (s : State), n ≤ s.lineScript.length →
    s.samples n = (s.lineScript.take n).map (fun w => w &&& s.cfg.lineMask)
  | 0, _, _ => rfl
  | n + 1, s, h => by
    cases hs : s.lineScript with
    | nil => rw [hs] at h; cases h
    | cons w rest =>
      have htail : (consumeAnswer s).lineScript = rest := by rw [consumeAnswer_lineScript, hs]; rfl
      have hrest := samples_of_script n (consumeAnswer s) (by rw [htail]; rw [hs] at h; exact Nat.le_of_succ_le_succ h)
      rw [htail] at hrest
      simp only [State.samples, hrest, State.lineAnswer, hs, consumeAnswer_cfg, List.take_succ_cons, List.map_cons]

/-- `byteOf` reads eight masks. -/
theorem byteOf_take (n : Nat) (ms : List Word) : byteOf n (ms.take 8) = byteOf n ms := by
  rw [byteOf, List.take_take, Nat.min_self, byteOf]

/-- The low byte of SR_RX after shifting answers in is the same shift on a byte. -/
theorem setWidth_foldl_shiftIn (c : Config) : ∀ (ms : List Word) (rx : Word),
    (ms.foldl (shiftIn c) rx).setWidth 8 =
      ms.foldl (fun (b : Byte) m => (b <<< 1) ||| (BitVec.ofBool (m.getLsbD c.miso)).setWidth 8) (rx.setWidth 8)
  | [], _ => rfl
  | m :: ms, rx => by
    have hone : (shiftIn c rx m).setWidth 8 = (rx.setWidth 8 <<< 1) ||| (BitVec.ofBool (m.getLsbD c.miso)).setWidth 8 := by
      unfold shiftIn
      refine BitVec.eq_of_getLsbD_eq fun i hi => ?_
      simp only [BitVec.getLsbD_setWidth, BitVec.getLsbD_or, BitVec.getLsbD_shiftLeft, hi, decide_true, Bool.true_and,
        show i < 32 by omega]
      by_cases h1 : i < 1
      · simp [h1]
      · simp [h1, show i - 1 < 8 by omega]
    rw [List.foldl_cons, List.foldl_cons, setWidth_foldl_shiftIn c ms, hone]

theorem byteOf_eq_foldl (c : Config) (ms : List Word) :
    byteOf c.miso ms = ((ms.take 8).foldl (shiftIn c) 0).setWidth 8 := by
  rw [setWidth_foldl_shiftIn, byteOf]; rfl

/-- Byte `j` of four received at once is the byte of its own eight answers. -/
theorem extract_foldl_shiftIn (c : Config) {ms : List Word} (hms : ms.length = 32) {j : Nat} (hj : j < 4) :
    (ms.foldl (shiftIn c) 0).extractLsb' (24 - 8 * j) 8 = byteOf c.miso (ms.drop (8 * j)) := by
  have hlen : ((ms.drop (8 * j)).take 8).length = 8 := by rw [List.length_take, List.length_drop]; omega
  rw [byteOf_eq_foldl]
  refine BitVec.eq_of_getLsbD_eq fun i hi => ?_
  rw [BitVec.getLsbD_extractLsb', BitVec.getLsbD_setWidth, getLsbD_foldl_shiftIn c ms 0 _ (by omega),
    getLsbD_foldl_shiftIn c _ 0 _ (by omega), hlen, hms, if_pos (by omega), if_pos hi, decide_eq_true hi]
  congr 2
  rw [List.getD_eq_getElem?_getD, List.getD_eq_getElem?_getD, List.getElem?_take_of_lt (by omega),
    List.getElem?_drop, show 32 - 1 - (24 - 8 * j + i) = 8 * j + (8 - 1 - i) by omega]

/-- A byte the slave answers, from the answers of any state whose script is what is left of it. -/
theorem slaveByte_eq {s u : State} {n j k : Nat} (hc : u.cfg = s.cfg) (hs : u.lineScript = s.lineScript.drop (8 * n))
    (hj : 8 * (j + 1) ≤ k) (hk : 8 * n + k ≤ s.lineScript.length) :
    byteOf s.cfg.miso ((u.samples k).drop (8 * j)) = s.slaveByte (n + j) := by
  rw [samples_of_script k u (by rw [hs, List.length_drop]; omega), hs, hc, State.slaveByte, ← byteOf_take,
    ← byteOf_take _ (List.map _ (s.lineScript.drop (8 * (n + j)))), ← List.map_drop, List.drop_take, List.drop_drop,
    ← List.map_take, ← List.map_take, List.take_take, Nat.min_eq_left (by omega), Nat.mul_add]

/-! ### SHIFT_BYTE and SHIFT_WORD (R102 to R106) -/

/-- A unit of bits leaves HW_CTRL alone. -/
theorem hwCtrl_shiftBits {one : Bool → State → State} (h : ∀ b s, (one b s).hwCtrl = s.hwCtrl) (k : Nat) (s : State) :
    (shiftBits one k s).hwCtrl = s.hwCtrl :=
  shiftBits_keeps (P := fun u => u.hwCtrl = s.hwCtrl) (fun b u hu => (h b u).trans hu) k s rfl

/-- What SHIFT_BYTE does to the trace, the script and HW_CTRL, and what it returns. -/
theorem shiftByte_spec (cpha cpol w : Bool) (tx : Byte) (s : State) :
    (shiftByte cpha cpol w tx s).2.trace = s.trace ++
        unitEvents (bitEvents cpha s.cfg s.speed.softDelayNs w cpol) (tx.setWidth 32) 8 (s.samples 8) ∧
      (shiftByte cpha cpol w tx s).2.lineScript = (if w then s.lineScript.drop 8 else s.lineScript) ∧
      (shiftByte cpha cpol w tx s).2.hwCtrl = s.hwCtrl ∧
      (shiftByte cpha cpol w tx s).1 = if w then byteOf s.cfg.miso (s.samples 8) else 0 := by
  let loaded := loadUnit ((s.srTx &&& 0xFFFFFF00) ||| tx.setWidth 32) 8 s
  have hlow : ∀ i < 8, loaded.srTx.getLsbD i = (tx.setWidth 32).getLsbD i := fun i hi => by
    have hmask : (0xFFFFFF00 : Word).getLsbD i = false := by interval_cases i <;> rfl
    show ((s.srTx &&& 0xFFFFFF00) ||| tx.setWidth 32).getLsbD i = _
    rw [BitVec.getLsbD_or, BitVec.getLsbD_and, hmask, Bool.and_false, Bool.false_or]
  have hunit : UnitStep w (bitEvents cpha s.cfg s.speed.softDelayNs w cpol) 8 loaded
      (shiftBits (if cpha then bitPhase1 w cpol else bitPhase0 w cpol) 8 loaded) := by
    cases cpha
    · exact shiftBits_unit (bitStep_phase0 w cpol _ _) 8 loaded rfl rfl
    · exact shiftBits_unit (bitStep_phase1 w cpol _ _) 8 loaded rfl rfl
  have hctrl : ∀ b u, ((if cpha then bitPhase1 w cpol else bitPhase0 w cpol) b u).hwCtrl = u.hwCtrl := by
    intro b u
    cases cpha
    · show (bitPhase0 w cpol b u).hwCtrl = _
      rw [bitPhase0_eq]
    · show (bitPhase1 w cpol b u).hwCtrl = _
      rw [bitPhase1_eq]
  have hsamples : loaded.samples 8 = s.samples 8 := samples_congr 8 rfl rfl rfl
  refine ⟨?_, hunit.script, hwCtrl_shiftBits hctrl 8 loaded, ?_⟩
  · refine hunit.trace.trans ?_
    rw [unitEvents_congr 8 _ hlow, hsamples]
    rfl
  · have hrx := hunit.srRx
    rw [hsamples] at hrx
    show (if w then (shiftBits _ 8 loaded).srRx.setWidth 8 else 0) = _
    cases w
    · rfl
    · rw [if_pos rfl, if_pos rfl, hrx, if_pos rfl, byteOf_eq_foldl, List.take_of_length_le (length_samples 8 s).le]
      rfl

/-- What SHIFT_WORD of 32 bits does to the trace, the script and HW_CTRL, and the bytes it returns. -/
theorem shiftWord_spec (cs : Slot) (cpol : Bool) (tx : Word) (s : State) :
    (shiftWord cs cpol 32 tx s).2.trace = s.trace ++ unitEvents (bitEventsHw s.cfg cpol) tx 32 (s.samples 32) ∧
      (shiftWord cs cpol 32 tx s).2.lineScript = s.lineScript.drop 32 ∧
      (shiftWord cs cpol 32 tx s).2.hwCtrl = (encode (.shiftWord cs cpol 32 0)).header ∧
      ∀ j < 4, (shiftWord cs cpol 32 tx s).1.extractLsb' (24 - 8 * j) 8 =
        byteOf s.cfg.miso ((s.samples 32).drop (8 * j)) := by
  let loaded := loadUnit tx 32 { s with hwCtrl := (encode (.shiftWord cs cpol 32 tx)).header }
  have hunit := shiftBits_unit (bitStep_hw cpol s.cfg s.speed.softDelayNs) 32 loaded rfl rfl
  have hsamples : loaded.samples 32 = s.samples 32 := samples_congr 32 rfl rfl rfl
  have hctrl : ∀ b u, (bitHw cpol b u).hwCtrl = u.hwCtrl := fun b u => by rw [bitHw_eq]
  have hkeep := hwCtrl_shiftBits hctrl 32 loaded
  have hcount : (32 : BitVec 6).toNat = 32 := rfl
  simp only [shiftWord, hcount, endUnit_trace, endUnit_lineScript, endUnit_hwCtrl, endUnit_srRx]
  generalize shiftBits (bitHw cpol) 32 loaded = done at hunit hkeep
  refine ⟨hunit.trace.trans (by rw [hsamples]; rfl), hunit.script, hkeep, fun j hj => ?_⟩
  rw [hunit.srRx, if_pos rfl, hsamples]
  exact extract_foldl_shiftIn s.cfg (length_samples 32 s) hj

end Sys2Proof.Machine
end

section
/-! SUPPORT. What an XFER has done after any number of its bytes, on either path (spec/41_bit_engine.md R107 to R111):
the levels of SCK and MOSI, the delays, the answers used up, HW_CTRL, and what memory holds. -/

namespace Sys2Proof.Machine

/-! ### Events that no view of the wire shows -/

/-- The event is a byte read or a byte store. -/
def ByteAccess : Event → Prop
  | .memRead _ n _ => n = 1
  | .memWrite _ n _ => n = 1
  | _ => False

/-- A view of the events that shows no access to host memory. -/
def BlindToMemory {α : Type} (f : Event → Option α) : Prop := ∀ e, ByteAccess e → f e = none

theorem levelOf_blind (n : Nat) : BlindToMemory (levelOf n) := by
  intro e he
  cases e <;> first | rfl | cases he

theorem delayOf_blind : BlindToMemory delayOf := by
  intro e he
  cases e <;> first | rfl | cases he

theorem BlindToMemory.filterMap {α : Type} {f : Event → Option α} (h : BlindToMemory f) {l : List Event}
    (hl : ∀ e ∈ l, ByteAccess e) : l.filterMap f = [] :=
  List.filterMap_eq_nil_iff.2 fun e he => h e (hl e he)

/-- From `s` to `u` the wire carries the events `wire`, with accesses to host memory before and after. -/
def OnWire (wire : List Event) (s u : State) : Prop :=
  ∃ before after, u.trace = s.trace ++ (before ++ wire ++ after) ∧ (∀ e ∈ before, ByteAccess e) ∧ ∀ e ∈ after, ByteAccess e

theorem OnWire.grows {wire : List Event} {s u : State} (h : OnWire wire s u) : s.trace <+: u.trace := by
  obtain ⟨before, after, ht, -⟩ := h
  exact ⟨_, ht.symm⟩

/-- A view that shows no access to host memory shows what is on the wire. -/
theorem OnWire.view {wire : List Event} {s u : State} (h : OnWire wire s u) {α : Type} {f : Event → Option α}
    (hf : BlindToMemory f) : (eventsSince s u).filterMap f = wire.filterMap f := by
  obtain ⟨before, after, ht, hb, ha⟩ := h
  rw [eventsSince_of_append ht, List.filterMap_append, List.filterMap_append, hf.filterMap hb, hf.filterMap ha]
  simp

/-! ### The tx buffer (R45, R46) -/

/-- The byte to send is that of memory, when no byte is raced, and reading it is at most a byte read. -/
theorem txByte_spec (t : Transfer) (n : Nat) (s : State) :
    (s.raced = [] → (txByte t n s).1 = s.txByteAt t n) ∧ (txByte t n s).2.mem = s.mem ∧
      (txByte t n s).2.lineScript = s.lineScript ∧ (txByte t n s).2.hwCtrl = s.hwCtrl ∧
      ∃ reads, (txByte t n s).2.trace = s.trace ++ reads ∧ ∀ e ∈ reads, ByteAccess e := by
  unfold txByte State.txByteAt
  split
  · exact ⟨fun _ => rfl, rfl, rfl, rfl, [], (List.append_nil _).symm, fun e he => by cases he⟩
  · refine ⟨fun h => byteAt_eq_memByte h _, rfl, rfl, rfl, _, rfl, fun e he => ?_⟩
    rw [List.mem_singleton.1 he]; rfl

/-- The word to send is four bytes of memory, when no byte is raced, and reading it is at most four byte reads. -/
theorem txWord_spec (t : Transfer) (n : Nat) (s : State) :
    (s.raced = [] → (txWord t n s).1 =
        packWord (s.txByteAt t n) (s.txByteAt t (n + 1)) (s.txByteAt t (n + 2)) (s.txByteAt t (n + 3))) ∧
      (txWord t n s).2.mem = s.mem ∧ (txWord t n s).2.lineScript = s.lineScript ∧
      (txWord t n s).2.hwCtrl = s.hwCtrl ∧
      ∃ reads, (txWord t n s).2.trace = s.trace ++ reads ∧ ∀ e ∈ reads, ByteAccess e := by
  unfold txWord State.txByteAt
  split
  · exact ⟨fun _ => rfl, rfl, rfl, rfl, [], (List.append_nil _).symm, fun e he => by cases he⟩
  · refine ⟨fun h => ?_, rfl, rfl, rfl, ?_⟩
    · have hbyte : ∀ u : State, u.raced = s.raced → u.mem = s.mem → ∀ a, (memRead1 a u).1 = s.memByte a :=
        fun u hr hm a => (byteAt_eq_memByte (hr.trans h) a).trans (by unfold State.memByte; rw [hm])
      show packWord _ _ _ _ = packWord _ _ _ _
      congr 1 <;> exact hbyte _ (by rfl) (by rfl) _
    · simp only [memRead1_eq, List.append_assoc]
      refine ⟨_, rfl, fun e he => ?_⟩
      simp only [List.cons_append, List.nil_append, List.mem_cons, List.not_mem_nil, or_false] at he
      rcases he with rfl | rfl | rfl | rfl <;> rfl

/-! ### One byte of the byte loop (R110, R111) -/

/-- The unit of byte `n`: what it receives, and the state after it. -/
def byteUnit (t : Transfer) (n : Nat) (s : State) : Byte × State :=
  shiftByte s.latch.cpha s.latch.cpol (decide (t.rxPtr ≠ 0)) (txByte t n (setBi n s)).1 (txByte t n (setBi n s)).2

/-- The state after byte `n`: the byte is compared, stored or dropped. -/
def afterByte (t : Transfer) (n : Nat) (s : State) : State :=
  if t.verify then (memRead1 (t.rxPtr + BitVec.ofNat 32 n) (byteUnit t n s).2).2
  else if t.rxPtr ≠ 0 then memWrite1 (t.rxPtr + BitVec.ofNat 32 n) (byteUnit t n s).1 (byteUnit t n s).2
  else (byteUnit t n s).2

/-- Byte `n` does not end the Transfer: no verify, or the byte received is the one expected. -/
def byteMatches (t : Transfer) (n : Nat) (s : State) : Prop :=
  t.verify = true → (byteUnit t n s).1 = (byteUnit t n s).2.byteAt (t.rxPtr + BitVec.ofNat 32 n)

theorem byteLoop_of_matches {t : Transfer} {n : Nat} {s : State} (h : byteMatches t n s) (k : Nat) :
    byteLoop t (k + 1) n s = byteLoop t k (n + 1) (afterByte t n s) := by
  cases hv : t.verify with
  | true =>
    have he := h hv
    simp only [byteLoop, afterByte, hv, if_true]
    exact if_pos he
  | false =>
    simp only [byteLoop, afterByte, hv, Bool.false_eq_true, if_false, decide_eq_true_eq]
    split <;> rfl

theorem byteLoop_of_mismatch {t : Transfer} {n : Nat} {s : State} (h : ¬ byteMatches t n s) (k : Nat) :
    t.verify = true ∧ byteLoop t (k + 1) n s = { n := n, ended := true, state := afterByte t n s } := by
  obtain ⟨hv, hne⟩ := Classical.not_imp.1 h
  refine ⟨hv, ?_⟩
  simp only [byteLoop, afterByte, hv, if_true]
  exact if_neg hne

theorem sameTransfer_byteUnit (t : Transfer) (n : Nat) (s : State) : SameTransfer s (byteUnit t n s).2 :=
  (sameTransfer_setBi n s).trans <| (sameTransfer_txByte t n _).trans (sameUnit_shiftByte ..).toTransfer

theorem sameTransfer_afterByte (t : Transfer) (n : Nat) (s : State) : SameTransfer s (afterByte t n s) := by
  have hunit := sameTransfer_byteUnit t n s
  unfold afterByte
  split
  · exact hunit.trans (sameTransfer_memRead1 _ _)
  · split
    · exact hunit.trans (sameTransfer_memWrite1 _ _ _)
    · exact hunit

/-- What the unit of byte `n` does. -/
theorem byteUnit_spec (t : Transfer) (n : Nat) (s : State) :
    (byteUnit t n s).2.mem = s.mem ∧ (byteUnit t n s).2.hwCtrl = s.hwCtrl ∧
      (byteUnit t n s).2.lineScript = (if t.rxPtr ≠ 0 then s.lineScript.drop 8 else s.lineScript) ∧
      (∃ u : State, u.cfg = s.cfg ∧ u.lineScript = s.lineScript ∧
        (byteUnit t n s).1 = if t.rxPtr ≠ 0 then byteOf s.cfg.miso (u.samples 8) else 0) ∧
      ∃ reads ms, (byteUnit t n s).2.trace = s.trace ++ (reads ++ unitEvents
          (bitEvents s.latch.cpha s.cfg s.speed.softDelayNs (decide (t.rxPtr ≠ 0)) s.latch.cpol)
          ((txByte t n (setBi n s)).1.setWidth 32) 8 ms) ∧ ∀ e ∈ reads, ByteAccess e := by
  obtain ⟨-, hmem, hscript, hctrl, reads, htrace, hreads⟩ := txByte_spec t n (setBi n s)
  have htx := (sameTransfer_setBi n s).trans (sameTransfer_txByte t n (setBi n s))
  obtain ⟨hut, hus, huc, hur⟩ := shiftByte_spec s.latch.cpha s.latch.cpol (decide (t.rxPtr ≠ 0))
    (txByte t n (setBi n s)).1 (txByte t n (setBi n s)).2
  have hum := (sameUnit_shiftByte s.latch.cpha s.latch.cpol (decide (t.rxPtr ≠ 0))
    (txByte t n (setBi n s)).1 (txByte t n (setBi n s)).2).mem
  rw [htx.cfg, htx.speed, htrace] at hut
  rw [hscript] at hus
  rw [htx.cfg] at hur
  simp only [decide_eq_true_eq] at hus hur
  exact ⟨hum.trans hmem, huc.trans hctrl, hus, ⟨_, htx.cfg, hscript, hur⟩, reads, _,
    hut.trans (List.append_assoc _ _ _), hreads⟩

/-- After its unit, byte `n` has at most one access to host memory. -/
theorem afterByte_unit (t : Transfer) (n : Nat) (s : State) :
    (afterByte t n s).hwCtrl = (byteUnit t n s).2.hwCtrl ∧ (afterByte t n s).lineScript = (byteUnit t n s).2.lineScript ∧
      ∃ access, (afterByte t n s).trace = (byteUnit t n s).2.trace ++ access ∧ ∀ e ∈ access, ByteAccess e := by
  unfold afterByte
  split
  · exact ⟨rfl, rfl, _, rfl, fun e he => by rw [List.mem_singleton.1 he]; rfl⟩
  · split
    · exact ⟨rfl, rfl, _, rfl, fun e he => by rw [List.mem_singleton.1 he]; rfl⟩
    · exact ⟨rfl, rfl, [], (List.append_nil _).symm, fun e he => by cases he⟩

/-- What byte `n` does besides memory: HW_CTRL stays, the script goes on by the byte's answers, and the byte is on the
wire. -/
theorem afterByte_spec (t : Transfer) (n : Nat) (s : State) :
    (afterByte t n s).hwCtrl = s.hwCtrl ∧
      (afterByte t n s).lineScript = (if t.rxPtr ≠ 0 then s.lineScript.drop 8 else s.lineScript) ∧
      ∃ ms, OnWire (unitEvents
        (bitEvents s.latch.cpha s.cfg s.speed.softDelayNs (decide (t.rxPtr ≠ 0)) s.latch.cpol)
        ((txByte t n (setBi n s)).1.setWidth 32) 8 ms) s (afterByte t n s) := by
  obtain ⟨-, hctrl, hscript, -, reads, ms, htrace, hreads⟩ := byteUnit_spec t n s
  obtain ⟨hctrl', hscript', access, htrace', haccess⟩ := afterByte_unit t n s
  exact ⟨hctrl'.trans hctrl, hscript'.trans hscript, ms, reads, access,
    by rw [htrace', htrace, List.append_assoc], hreads, haccess⟩

/-- Byte `n` changes memory at its place in the rx buffer only. -/
theorem read_afterByte {t : Transfer} {n : Nat} (s : State) (hfit : t.rxPtr = 0 ∨ t.rxPtr.toNat + t.len.toNat ≤ 2 ^ 32)
    (hn : n < t.len.toNat) {a : Nat} (ha : t.verify = true ∨ t.rxPtr = 0 ∨ a ≠ t.rxPtr.toNat + n) :
    (afterByte t n s).mem.read a = s.mem.read a := by
  have hmem := (byteUnit_spec t n s).1
  unfold afterByte
  split
  · exact congrArg (·.read a) hmem
  · rename_i hv
    split
    · rename_i hrx
      have haddr : (t.rxPtr + BitVec.ofNat 32 n).toNat = t.rxPtr.toNat + n := by
        have := hfit.resolve_left hrx
        exact toNat_add_ofNat (by omega)
      rw [memWrite1_mem, haddr, read_write_other _ _ _ _ ((ha.resolve_left hv).resolve_left hrx), hmem]
    · exact congrArg (·.read a) hmem

/-- Byte `n` stores the byte received at its place in the rx buffer. -/
theorem read_afterByte_same {t : Transfer} {n : Nat} (s : State)
    (hfit : t.rxPtr = 0 ∨ t.rxPtr.toNat + t.len.toNat ≤ 2 ^ 32) (hn : n < t.len.toNat) (hv : t.verify = false)
    (hrx : t.rxPtr ≠ 0) : (afterByte t n s).mem.read (t.rxPtr.toNat + n) = some (byteUnit t n s).1 := by
  have haddr : (t.rxPtr + BitVec.ofNat 32 n).toNat = t.rxPtr.toNat + n := by
    have := hfit.resolve_left hrx
    exact toNat_add_ofNat (by omega)
  unfold afterByte
  rw [hv, if_neg Bool.false_ne_true, if_pos hrx, memWrite1_mem, haddr, read_write_same]

/-! ### One chunk of the fast path (R107, R108) -/

/-- The unit of the chunk at offset `n`. -/
def chunkUnit (d : Slot) (t : Transfer) (n : Nat) (s : State) : Word × State :=
  shiftWord d s.latch.cpol 32 (txWord t n (setBi n s)).1 (txWord t n (setBi n s)).2

/-- The state after the chunk at offset `n`, without a fault. -/
def afterChunk (d : Slot) (t : Transfer) (n : Nat) (s : State) : State :=
  rxWord t n (chunkUnit d t n s).1 (chunkUnit d t n s).2

theorem fastLoop_of_no_fault {d : Slot} {t : Transfer} {s : State} (h : s.cfg.hwFaults = []) (k n : Nat) :
    fastLoop d t (k + 1) n s = fastLoop d t k (n + 4) (afterChunk d t n s) := by
  simp only [fastLoop, h]
  rfl

theorem sameTransfer_afterChunk (d : Slot) (t : Transfer) (n : Nat) (s : State) : SameTransfer s (afterChunk d t n s) :=
  (sameTransfer_setBi n s).trans <| (sameTransfer_txWord t n _).trans <|
    (sameUnit_shiftWord ..).toTransfer.trans (sameTransfer_rxWord t n _ _)

/-- The stores of a chunk: nothing without an rx buffer, else byte `j` of the word at its place. -/
theorem rxWord_spec {t : Transfer} {n : Nat} (r : Word) (s : State)
    (hfit : t.rxPtr = 0 ∨ t.rxPtr.toNat + t.len.toNat ≤ 2 ^ 32) (hn : n + 4 ≤ t.len.toNat) :
    (rxWord t n r s).hwCtrl = s.hwCtrl ∧ (rxWord t n r s).lineScript = s.lineScript ∧
      (∃ writes, (rxWord t n r s).trace = s.trace ++ writes ∧ ∀ e ∈ writes, ByteAccess e) ∧
      (∀ a : Nat, t.rxPtr = 0 ∨ a < t.rxPtr.toNat + n ∨ t.rxPtr.toNat + n + 4 ≤ a →
        (rxWord t n r s).mem.read a = s.mem.read a) ∧
      (t.rxPtr ≠ 0 → ∀ j < 4, (rxWord t n r s).mem.read (t.rxPtr.toNat + n + j) =
        some (r.extractLsb' (24 - 8 * j) 8)) := by
  unfold rxWord
  split
  · rename_i hz
    exact ⟨rfl, rfl, ⟨[], (List.append_nil _).symm, fun e he => by cases he⟩, fun _ _ => rfl, fun h => absurd hz h⟩
  · rename_i hrx
    have hend := hfit.resolve_left hrx
    have haddr : ∀ i < 4, (t.rxPtr + BitVec.ofNat 32 (n + i)).toNat = t.rxPtr.toNat + (n + i) := fun i hi =>
      toNat_add_ofNat (by omega)
    have h0 : (t.rxPtr + BitVec.ofNat 32 n).toNat = t.rxPtr.toNat + n := toNat_add_ofNat (by omega)
    refine ⟨rfl, rfl, ?_, fun a ha => ?_, fun _ j hj => ?_⟩
    · simp only [memWrite1_eq, List.append_assoc]
      refine ⟨_, rfl, fun e he => ?_⟩
      simp only [List.cons_append, List.nil_append, List.mem_cons, List.not_mem_nil, or_false] at he
      rcases he with rfl | rfl | rfl | rfl <;> rfl
    · have hout := ha.resolve_left hrx
      simp only [memWrite1_mem, read_write, haddr 1 (by omega), haddr 2 (by omega), haddr 3 (by omega), h0]
      rw [if_neg (by omega), if_neg (by omega), if_neg (by omega), if_neg (by omega)]
    · simp only [memWrite1_mem, read_write, haddr 1 (by omega), haddr 2 (by omega), haddr 3 (by omega), h0]
      interval_cases j <;> simp [Nat.add_assoc]

/-- What the chunk at offset `n` does. -/
theorem afterChunk_spec {d : Slot} {t : Transfer} {n : Nat} (s : State)
    (hfit : t.rxPtr = 0 ∨ t.rxPtr.toNat + t.len.toNat ≤ 2 ^ 32) (hn : n + 4 ≤ t.len.toNat) :
    (afterChunk d t n s).hwCtrl = (encode (.shiftWord d s.latch.cpol 32 0)).header ∧
      (afterChunk d t n s).lineScript = s.lineScript.drop 32 ∧
      (∃ ms, OnWire (unitEvents (bitEventsHw s.cfg s.latch.cpol) (txWord t n (setBi n s)).1 32 ms) s (afterChunk d t n s)) ∧
      (∀ a : Nat, t.rxPtr = 0 ∨ a < t.rxPtr.toNat + n ∨ t.rxPtr.toNat + n + 4 ≤ a →
        (afterChunk d t n s).mem.read a = s.mem.read a) ∧
      ∃ u : State, u.cfg = s.cfg ∧ u.lineScript = s.lineScript ∧
        (t.rxPtr ≠ 0 → ∀ j < 4, (afterChunk d t n s).mem.read (t.rxPtr.toNat + n + j) =
          some (byteOf s.cfg.miso ((u.samples 32).drop (8 * j)))) := by
  obtain ⟨-, hmem, hscript, -, reads, htrace, hreads⟩ := txWord_spec t n (setBi n s)
  have htx := (sameTransfer_setBi n s).trans (sameTransfer_txWord t n (setBi n s))
  obtain ⟨hut, hus, huc, hur⟩ := shiftWord_spec d s.latch.cpol (txWord t n (setBi n s)).1 (txWord t n (setBi n s)).2
  have hum := (sameUnit_shiftWord d s.latch.cpol 32 (txWord t n (setBi n s)).1 (txWord t n (setBi n s)).2).mem
  obtain ⟨hrc, hrs, ⟨writes, hrt, hwrites⟩, hkept, hstored⟩ :=
    rxWord_spec (chunkUnit d t n s).1 (chunkUnit d t n s).2 hfit hn
  rw [htx.cfg, htrace] at hut
  rw [htx.cfg] at hur
  refine ⟨hrc.trans huc, hrs.trans (hus.trans (by rw [hscript]; rfl)),
    ⟨(txWord t n (setBi n s)).2.samples 32, reads, writes, ?_, hreads, hwrites⟩,
    fun a ha => (hkept a ha).trans ?_, _, htx.cfg, hscript, fun hrx j hj => ?_⟩
  · rw [afterChunk, hrt, chunkUnit, hut]
    simp only [setBi_trace, List.append_assoc]
  · rw [chunkUnit, hum, hmem]; rfl
  · rw [afterChunk, hstored hrx j hj, chunkUnit, hur j hj]

/-! ### Any number of bytes -/

/-- From `s` to `u` the first `n` bytes of the Transfer are clocked, the first `w` of them in chunks. -/
structure Clocked (d : Slot) (t : Transfer) (w n : Nat) (s u : State) : Prop where
  same : SameTransfer s u
  grows : s.trace <+: u.trace
  clock : s.cfg.wf = true → levelsSince s.cfg.sck s u = clockLevels s.latch.cpol n
  data : s.cfg.wf = true → s.raced = [] → buffersApart t → levelsSince s.cfg.mosi s u = s.dataLevels t n
  delays : delaysSince s u = byteDelays s.speed.softDelayNs (n - w)
  script : u.lineScript = s.lineScript.drop (8 * if t.rxPtr ≠ 0 then n else w)
  hwCtrl : u.hwCtrl = if w = 0 then s.hwCtrl else (encode (.shiftWord d s.latch.cpol 32 0)).header
  kept : ∀ a : Nat, t.verify = true ∨ t.rxPtr = 0 ∨ a < t.rxPtr.toNat ∨ t.rxPtr.toNat + n ≤ a →
    u.mem.read a = s.mem.read a
  stored : t.verify = false → t.rxPtr ≠ 0 → 8 * n ≤ s.lineScript.length →
    ∀ k < n, u.mem.read (t.rxPtr.toNat + k) = some (s.slaveByte k)

theorem Clocked.refl (d : Slot) (t : Transfer) (s : State) : Clocked d t 0 0 s s where
  same := .refl s
  grows := List.prefix_rfl
  clock _ := by rw [levelsSince_eq, eventsSince_self]; rfl
  data _ _ _ := by rw [levelsSince_eq, eventsSince_self]; rfl
  delays := by rw [delaysSince_eq, eventsSince_self]; rfl
  script := by simp
  hwCtrl := rfl
  kept _ _ := rfl
  stored _ _ _ _ hk := absurd hk (Nat.not_lt_zero _)

variable {d : Slot} {t : Transfer} {w n : Nat} {s u : State}

/-- The bytes not sent yet are those of the start, when the buffers are apart. -/
theorem Clocked.txByteAt (h : Clocked d t w n s u) (hapart : buffersApart t)
    (hfit : t.txPtr = 0 ∨ t.txPtr.toNat + t.len.toNat ≤ 2 ^ 32) {k : Nat} (hnk : n ≤ k) (hk : k < t.len.toNat) :
    u.txByteAt t k = s.txByteAt t k := by
  unfold State.txByteAt
  split
  · rfl
  · rename_i htx
    have haddr : (t.txPtr + BitVec.ofNat 32 k).toNat = t.txPtr.toNat + k := by
      have := hfit.resolve_left htx
      exact toNat_add_ofNat (by omega)
    refine memByte_congr (h.kept _ ?_)
    rw [haddr]
    rcases hapart.resolve_left htx with hrx | hv | heq | hbelow | habove
    · exact .inr (.inl hrx)
    · exact .inl hv
    · rw [heq]; exact .inr (.inr (.inr (by omega)))
    · exact .inr (.inr (.inl (by omega)))
    · exact .inr (.inr (.inr (by omega)))

/-- A view of the whole is that of what was clocked before, followed by that of the wire since. -/
theorem Clocked.view {v : State} {wire : List Event} (h : Clocked d t w n s u) (hw : OnWire wire u v) {α : Type}
    {f : Event → Option α} (hf : BlindToMemory f) :
    (eventsSince s v).filterMap f = (eventsSince s u).filterMap f ++ wire.filterMap f := by
  rw [eventsSince_trans h.grows hw.grows, List.filterMap_append, hw.view hf]

theorem clockLevels_add (cpol : Bool) (n k : Nat) : clockLevels cpol (n + k) = clockLevels cpol n ++ clockLevels cpol k := by
  unfold clockLevels
  rw [Nat.mul_add, List.replicate_add, List.flatten_append]

theorem byteDelays_add (ns : Word) (n k : Nat) : byteDelays ns (n + k) = byteDelays ns n ++ byteDelays ns k := by
  unfold byteDelays
  rw [Nat.mul_add, List.replicate_add, List.flatten_append]

theorem dataLevels_succ (s : State) (t : Transfer) (n : Nat) :
    s.dataLevels t (n + 1) = s.dataLevels t n ++ wireBits (s.txByteAt t n) := by
  unfold State.dataLevels
  rw [List.range_succ, List.flatMap_append, List.flatMap_cons, List.flatMap_nil, List.append_nil]

/-- One more byte is clocked by the byte loop. -/
theorem Clocked.byte (h : Clocked d t w n s u) (hw : w ≤ n) (hn : n < t.len.toNat)
    (htx : t.txPtr = 0 ∨ t.txPtr.toNat + t.len.toNat ≤ 2 ^ 32)
    (hrx : t.rxPtr = 0 ∨ t.rxPtr.toNat + t.len.toNat ≤ 2 ^ 32) :
    Clocked d t w (n + 1) s (afterByte t n u) := by
  obtain ⟨hctrl, hscript, ms, hwire⟩ := afterByte_spec t n u
  rw [h.same.latch, h.same.cfg, h.same.speed] at hwire
  constructor
  case same => exact h.same.trans (sameTransfer_afterByte t n u)
  case grows => exact h.grows.trans hwire.grows
  case clock =>
    intro hc
    rw [levelsSince_eq, h.view hwire (levelOf_blind _), ← levelsSince_eq, h.clock hc, clockLevels_add,
      filterMap_unitEvents (fun b m => sck_bitEvents _ _ _ _ b m hc), flatMap_const, length_bitsDown]
    rfl
  case data =>
    intro hc hraced hapart
    have hbyte : (txByte t n (setBi n u)).1 = s.txByteAt t n :=
      ((txByte_spec t n (setBi n u)).1 (h.same.raced.trans hraced)).trans (h.txByteAt hapart htx (Nat.le_refl n) hn)
    rw [levelsSince_eq, h.view hwire (levelOf_blind _), ← levelsSince_eq, h.data hc hraced hapart, dataLevels_succ,
      filterMap_unitEvents (fun b m => mosi_bitEvents _ _ _ _ b m hc), hbyte, bitsDown_byte, List.flatMap_singleton']
  case delays =>
    rw [delaysSince_eq, h.view hwire delayOf_blind, ← delaysSince_eq, h.delays, Nat.sub_add_comm hw, byteDelays_add,
      filterMap_unitEvents (fun b m => delays_bitEvents _ _ _ _ b m), flatMap_const, length_bitsDown]
    simp [byteDelays, List.replicate_succ]
  case script =>
    rw [hscript, h.script]
    split
    · rw [List.drop_drop, Nat.mul_add]
    · rfl
  case hwCtrl => rw [hctrl, h.hwCtrl]
  case kept =>
    intro a ha
    rw [read_afterByte u hrx hn (ha.imp_right (.imp_right fun h => by omega))]
    exact h.kept a (ha.imp_right (.imp_right (.imp_right fun h => by omega)))
  case stored =>
    intro hv hne hlen k hk
    rcases Nat.lt_succ_iff_lt_or_eq.1 hk with hlt | rfl
    · rw [read_afterByte u hrx hn (.inr (.inr (by omega)))]
      exact h.stored hv hne (by omega) k hlt
    · obtain ⟨v, hvc, hvs, hbyte⟩ := (byteUnit_spec t k u).2.2.2.1
      have hsc : v.lineScript = s.lineScript.drop (8 * k) := by rw [hvs, h.script, if_pos hne]
      have hanswer := slaveByte_eq (j := 0) (k := 8) (hvc.trans h.same.cfg) hsc (by omega) (by omega)
      rw [read_afterByte_same u hrx hn hv hne, hbyte, if_pos hne, h.same.cfg]
      exact congrArg some hanswer

/-- Four more bytes are clocked by a chunk. -/
theorem Clocked.chunk (h : Clocked d t n n s u) (hn : n + 4 ≤ t.len.toNat) (hv : t.verify = false)
    (htx : t.txPtr = 0 ∨ t.txPtr.toNat + t.len.toNat ≤ 2 ^ 32)
    (hrx : t.rxPtr = 0 ∨ t.rxPtr.toNat + t.len.toNat ≤ 2 ^ 32) :
    Clocked d t (n + 4) (n + 4) s (afterChunk d t n u) := by
  obtain ⟨hctrl, hscript, ⟨ms, hwire⟩, hkept, v, hvc, hvs, hstored⟩ := afterChunk_spec (d := d) u hrx hn
  rw [h.same.latch, h.same.cfg] at hwire
  constructor
  case same => exact h.same.trans (sameTransfer_afterChunk d t n u)
  case grows => exact h.grows.trans hwire.grows
  case clock =>
    intro hc
    rw [levelsSince_eq, h.view hwire (levelOf_blind _), ← levelsSince_eq, h.clock hc, clockLevels_add,
      filterMap_unitEvents (fun b m => sck_bitEventsHw _ b m hc), flatMap_const, length_bitsDown]
    rfl
  case data =>
    intro hc hraced hapart
    have hbyte : ∀ k, n ≤ k → k < n + 4 → (setBi n u).txByteAt t k = s.txByteAt t k := fun k h1 h2 =>
      h.txByteAt hapart htx h1 (by omega)
    have hword := (txWord_spec t n (setBi n u)).1 (h.same.raced.trans hraced)
    rw [hbyte n (by omega) (by omega), hbyte (n + 1) (by omega) (by omega), hbyte (n + 2) (by omega) (by omega),
      hbyte (n + 3) (by omega) (by omega)] at hword
    rw [levelsSince_eq, h.view hwire (levelOf_blind _), ← levelsSince_eq, h.data hc hraced hapart,
      filterMap_unitEvents (fun b m => mosi_bitEventsHw _ b m hc), hword, bitsDown_packWord, List.flatMap_singleton',
      dataLevels_succ, dataLevels_succ, dataLevels_succ, dataLevels_succ]
    simp only [List.append_assoc]
  case delays =>
    rw [delaysSince_eq, h.view hwire delayOf_blind, ← delaysSince_eq, h.delays, Nat.sub_self, Nat.sub_self,
      filterMap_unitEvents (fun b m => delays_bitEventsHw _ b m), flatMap_const]
    simp
  case script =>
    rw [hscript, h.script, ite_self, ite_self, List.drop_drop]
    congr 1
  case hwCtrl => rw [hctrl, h.same.latch, if_neg (by omega)]
  case kept =>
    intro a ha
    rw [hkept a ((ha.resolve_left (by simp [hv])).imp_right fun h => by omega)]
    exact h.kept a (ha.imp_right (.imp_right (.imp_right fun h => by omega)))
  case stored =>
    intro _ hne hlen k hk
    by_cases hlt : k < n
    · rw [hkept _ (.inr (.inl (by omega)))]
      exact h.stored hv hne (by omega) k hlt
    · obtain ⟨j, rfl⟩ := Nat.exists_eq_add_of_le (Nat.not_lt.1 hlt)
      have hsc : v.lineScript = s.lineScript.drop (8 * n) := by rw [hvs, h.script, if_pos hne]
      rw [← Nat.add_assoc, hstored hne j (by omega), h.same.cfg,
        slaveByte_eq (hvc.trans h.same.cfg) hsc (by omega) (by omega)]

end Sys2Proof.Machine
end

section
/-! SUPPORT. XFER as a whole (spec/41_bit_engine.md R107 to R111): its loops clock the bytes of the Transfer, and the
statements about the bytes it stores and sends. -/

namespace Sys2Proof.Machine

variable {d : Slot} {t : Transfer} {w : Nat} {s : State}

/-! ### The loops -/

/-- The byte loop clocks all its bytes, or, in verify mode only, those up to and with a mismatch. -/
theorem Clocked.byteLoop (htx : t.txPtr = 0 ∨ t.txPtr.toNat + t.len.toNat ≤ 2 ^ 32)
    (hrx : t.rxPtr = 0 ∨ t.rxPtr.toNat + t.len.toNat ≤ 2 ^ 32) : ∀ (k n : Nat) (u : State),
    Clocked d t w n s u → w ≤ n → n + k ≤ t.len.toNat →
    ((Machine.byteLoop t k n u).n = n + k ∧ Clocked d t w (n + k) s (Machine.byteLoop t k n u).state) ∨
      (t.verify = true ∧ (Machine.byteLoop t k n u).n < n + k ∧
        Clocked d t w ((Machine.byteLoop t k n u).n + 1) s (Machine.byteLoop t k n u).state)
  | 0, _, _, h, _, _ => .inl ⟨rfl, h⟩
  | k + 1, n, u, h, hw, hn => by
    have hone := h.byte hw (by omega) htx hrx
    by_cases hm : byteMatches t n u
    · rw [byteLoop_of_matches hm]
      have ih := Clocked.byteLoop htx hrx k (n + 1) _ hone (by omega) (by omega)
      rwa [show n + 1 + k = n + (k + 1) by omega] at ih
    · obtain ⟨hv, heq⟩ := byteLoop_of_mismatch hm k
      rw [heq]
      exact .inr ⟨hv, Nat.lt_add_of_pos_right (Nat.succ_pos k), hone⟩

/-- The loop of chunks clocks all its bytes, when the engine has no faults. -/
theorem Clocked.fastLoop (hv : t.verify = false) (hf : s.cfg.hwFaults = [])
    (htx : t.txPtr = 0 ∨ t.txPtr.toNat + t.len.toNat ≤ 2 ^ 32)
    (hrx : t.rxPtr = 0 ∨ t.rxPtr.toNat + t.len.toNat ≤ 2 ^ 32) : ∀ (k n : Nat) (u : State),
    Clocked d t n n s u → n + 4 * k ≤ t.len.toNat →
    (Machine.fastLoop d t k n u).n = n + 4 * k ∧ (Machine.fastLoop d t k n u).ended = false ∧
      Clocked d t (n + 4 * k) (n + 4 * k) s (Machine.fastLoop d t k n u).state
  | 0, _, _, h, _ => ⟨rfl, rfl, h⟩
  | k + 1, n, u, h, hn => by
    have hone := h.chunk (by omega) hv htx hrx
    rw [fastLoop_of_no_fault (h.same.cfg ▸ hf)]
    have ih := Clocked.fastLoop hv hf htx hrx k (n + 4) _ hone (by omega)
    rwa [show n + 4 + 4 * k = n + 4 * (k + 1) by omega] at ih

theorem Clocked.setBi {n : Nat} {u : State} (h : Clocked d t w n s u) : Clocked d t w n s (setBi 0 u) :=
  { h with same := h.same.trans (sameTransfer_setBi 0 u) }

/-- The number of bytes of the Transfer that go through chunks (R107, R108). -/
def wordBytes (s : State) (d : Slot) (t : Transfer) : Nat := if wordPath s d t then 4 * (t.len.toNat / 4) else 0

theorem wordBytes_le (s : State) (d : Slot) (t : Transfer) : wordBytes s d t ≤ t.len.toNat := by
  unfold wordBytes
  split <;> omega

/-- The chunks of an eligible Transfer are clocked, when no fault can end them. -/
theorem clocked_fastPart (hf : t.verify = true ∨ s.cfg.hwFaults = [])
    (htx : t.txPtr = 0 ∨ t.txPtr.toNat + t.len.toNat ≤ 2 ^ 32)
    (hrx : t.rxPtr = 0 ∨ t.rxPtr.toNat + t.len.toNat ≤ 2 ^ 32) :
    (fastPart d t s).n = wordBytes s d t ∧ (fastPart d t s).ended = false ∧
      Clocked d t (wordBytes s d t) (wordBytes s d t) s (fastPart d t s).state := by
  unfold fastPart wordBytes
  by_cases h : fastOk d t s = true
  · rw [if_pos h, if_pos ((fastOk_iff d t s).1 h)]
    have hv := fastOk_verify h
    have hall := Clocked.fastLoop hv (hf.resolve_left (by simp [hv])) htx hrx (t.len.toNat / 4) 0 s (.refl d t s)
      (by omega)
    rwa [Nat.zero_add] at hall
  · rw [if_neg h, if_neg fun hp => h ((fastOk_iff d t s).2 hp)]
    exact ⟨rfl, rfl, .refl d t s⟩

/-- XFER clocks the bytes `bytesClocked` says, and moves all of them without verify, when no fault can end it. -/
theorem clocked_xfer {c : Config} (hok : t.ok c = true) (hf : t.verify = true ∨ s.cfg.hwFaults = []) :
    Clocked d t (wordBytes s d t) (bytesClocked t (xfer d t s).1) s (xfer d t s).2 ∧
      (t.verify = false → (xfer d t s).1 = t.len) := by
  obtain ⟨-, htx, hrx⟩ := transfer_ok hok
  obtain ⟨hn, hended, hfast⟩ := clocked_fastPart (d := d) hf htx hrx
  have hle := wordBytes_le s d t
  have hlen := t.len.isLt
  have hbytes := hfast.byteLoop htx hrx (t.len.toNat - wordBytes s d t) (wordBytes s d t) _ (Nat.le_refl _) (by omega)
  rw [show wordBytes s d t + (t.len.toNat - wordBytes s d t) = t.len.toNat by omega] at hbytes
  have hpart : bytePart t (fastPart d t s) =
      Machine.byteLoop t (t.len.toNat - wordBytes s d t) (wordBytes s d t) (fastPart d t s).state := by
    unfold bytePart
    rw [hended, hn]
    rfl
  unfold xfer
  rw [hpart]
  generalize Machine.byteLoop t (t.len.toNat - wordBytes s d t) (wordBytes s d t) (fastPart d t s).state = p at hbytes
  rcases hbytes with ⟨hp, hall⟩ | ⟨hv, hp, hsome⟩
  · have hgot : BitVec.ofNat 32 p.n = t.len := by rw [hp, BitVec.ofNat_toNat, BitVec.setWidth_eq]
    have hclocked : bytesClocked t (BitVec.ofNat 32 p.n) = t.len.toNat := by
      rw [hgot]
      unfold bytesClocked
      split
      · exact Nat.min_eq_right (Nat.le_succ _)
      · rfl
    exact ⟨hclocked ▸ hall.setBi, fun _ => hgot⟩
  · have hclocked : bytesClocked t (BitVec.ofNat 32 p.n) = p.n + 1 := by
      unfold bytesClocked
      rw [if_pos hv, BitVec.toNat_ofNat, Nat.mod_eq_of_lt (by omega)]
      omega
    exact ⟨hclocked ▸ hsome.setBi, fun hnv => by rw [hv] at hnv; cases hnv⟩

/-! ### The count moved -/

theorem n_byteLoop (t : Transfer) : ∀ (k n : Nat) (s : State), (byteLoop t k n s).n ≤ n + k
  | 0, n, _ => Nat.le_refl n
  | k + 1, n, s => by
    by_cases hm : byteMatches t n s
    · rw [byteLoop_of_matches hm]
      exact (n_byteLoop t k (n + 1) _).trans (by omega)
    · rw [(byteLoop_of_mismatch hm k).2]
      exact Nat.le_add_right _ _

/-- XFER moves at most `len` bytes, faults or not. -/
theorem xfer_count_le (d : Slot) (t : Transfer) (s : State) : (xfer d t s).1.toNat ≤ t.len.toNat := by
  have hfast : (fastPart d t s).n ≤ t.len.toNat := by
    unfold fastPart
    split
    · exact (n_fastLoop d t _ _ s).trans (by omega)
    · exact Nat.zero_le _
  have hall : (bytePart t (fastPart d t s)).n ≤ t.len.toNat := by
    unfold bytePart
    split
    · exact hfast
    · exact (n_byteLoop t _ _ _).trans (by omega)
  exact (BitVec.toNat_ofNat _ _).trans_le ((Nat.mod_le _ _).trans hall)

/-- A verify Transfer whose first byte differs from the one expected moves nothing (R111). -/
theorem xfer_first_mismatch {c : Config} (hok : t.ok c = true) (hv : t.verify = true) (hlen : t.len ≠ 0)
    (hraced : s.raced = []) (hscript : 8 ≤ s.lineScript.length) (hne : s.slaveByte 0 ≠ s.memByte t.rxPtr) :
    (xfer d t s).1 = 0 := by
  have hrx : t.rxPtr ≠ 0 := (transfer_ok hok).1 hv
  obtain ⟨hmem, -, -, ⟨v, hvc, hvs, hbyte⟩, -⟩ := byteUnit_spec t 0 s
  have hreceived : (byteUnit t 0 s).1 = s.slaveByte 0 := by
    rw [hbyte, if_pos hrx]
    exact slaveByte_eq (s := s) (n := 0) (j := 0) (k := 8) hvc (by rw [hvs]; rfl) (by omega) (by omega)
  have hexpected : (byteUnit t 0 s).2.byteAt (t.rxPtr + BitVec.ofNat 32 0) = s.memByte t.rxPtr := by
    rw [byteAt_eq_memByte ((sameTransfer_byteUnit t 0 s).raced.trans hraced), show t.rxPtr + BitVec.ofNat 32 0 = t.rxPtr
      from BitVec.add_zero _]
    exact memByte_congr (congrArg (·.read t.rxPtr.toNat) hmem)
  have hmismatch : ¬ byteMatches t 0 s := fun h => hne (hreceived.symm.trans ((h hv).trans hexpected))
  have hslow : fastOk d t s ≠ true := fun h => by rw [fastOk_verify h] at hv; cases hv
  obtain ⟨k, hk⟩ : ∃ k, t.len.toNat = k + 1 :=
    Nat.exists_eq_succ_of_ne_zero fun h0 => hlen (BitVec.eq_of_toNat_eq h0)
  have hpart : bytePart t (fastPart d t s) = byteLoop t (k + 1) 0 s := by
    unfold bytePart fastPart
    rw [if_neg hslow, if_neg Bool.false_ne_true, Nat.sub_zero, hk]
  unfold xfer
  rw [hpart, (byteLoop_of_mismatch hmismatch k).2]
  rfl

/-! ### XFER issued by itself (R110, log 17) -/

/-- What XFER asks of its operands. -/
theorem exec_xfer_eq {desc : Word} (h : xferRuns s d desc) :
    exec (.xfer d desc) s = .next { (xfer d (transferAt desc s) s).2 with ret := (xfer d (transferAt desc s) s).1 } := by
  obtain ⟨hslot, haddr, hrange, hok, hphase⟩ := h
  show execXfer d desc s = _
  unfold execXfer
  rw [hslot, haddr, hrange, hok, xferChecked_eq hphase]
  rfl

/-- XFER that completes had legal operands. -/
theorem xferRuns_of_next {desc : Word} {u : State} (h : exec (.xfer d desc) s = .next u) : xferRuns s d desc := by
  change execXfer d desc s = .next u at h
  unfold execXfer at h
  split at h
  · cases h
  · rename_i hslot
    split at h
    · cases h
    · rename_i haddr
      split at h
      · cases h
      · rename_i hdesc
        simp only [Bool.not_eq_true, Bool.not_eq_false', Bool.and_eq_true] at hslot haddr hdesc
        refine ⟨hslot, haddr, hdesc.1, hdesc.2, fun hcpha => ?_⟩
        by_contra hno
        have hphase : phaseOk s.latch.cpha s = .error .phaseNotSupported := by
          unfold phaseOk
          rw [hcpha, Bool.eq_false_iff.2 hno]
          rfl
        unfold xferChecked at h
        rw [hphase] at h
        cases h

/-- XFER that completes clocks its bytes, when no fault can end it; `ret` is the count. -/
theorem clocked_of_next {desc : Word} {u : State} (h : exec (.xfer d desc) s = .next u)
    (hf : (transferAt desc s).verify = true ∨ s.cfg.hwFaults = []) :
    ∃ v, Clocked d (transferAt desc s) (wordBytes s d (transferAt desc s)) (bytesClocked (transferAt desc s) u.ret) s v ∧
      u = { v with ret := u.ret } := by
  have hruns := xferRuns_of_next h
  have heq := (exec_xfer_eq hruns).symm.trans h
  obtain ⟨-, -, -, hok, -⟩ := hruns
  cases heq
  exact ⟨_, (clocked_xfer hok hf).1, rfl⟩

/-- Settles O19: the bytes stored are among what `Clocked` says of all `len` bytes. -/
theorem xferStoresReceivedBytes : Obligations.XferStoresReceivedBytes := by
  intro s t d desc h hv hrx hf _ hscript k hk
  obtain ⟨v, hclocked, heq⟩ := clocked_of_next h (.inr hf)
  have hall : bytesClocked (transferAt desc s) t.ret = (transferAt desc s).len.toNat :=
    if_neg (by rw [hv]; exact Bool.false_ne_true)
  rw [hall] at hclocked
  rw [heq]
  exact hclocked.stored hv hrx hscript k hk

/-- Settles O20: the levels, the delays, the answers used up and HW_CTRL are those `Clocked` says of all `len` bytes,
the chunks among them those of R107. -/
theorem xferSendsTxBytes : Obligations.XferSendsTxBytes := by
  have hall : ∀ {x : Transfer} {got : Word}, x.verify = false → bytesClocked x got = x.len.toNat := fun hv =>
    if_neg (by rw [hv]; exact Bool.false_ne_true)
  refine ⟨fun s t d desc h hc hraced hapart hv hf => ?levels, fun s t d desc h hv hf => ?path⟩
  case levels =>
    obtain ⟨v, hclocked, heq⟩ := clocked_of_next h (.inr hf)
    rw [hall hv] at hclocked
    rw [heq]
    exact ⟨hclocked.data hc hraced hapart, hclocked.clock hc⟩
  case path =>
    obtain ⟨v, hclocked, heq⟩ := clocked_of_next h (.inr hf)
    rw [hall hv] at hclocked
    obtain ⟨-, -, -, -, hdelays, hscript, hctrl, -, -⟩ := hclocked
    rw [heq]
    refine ⟨hdelays.trans ?_, hctrl.trans ?_, hscript.trans ?_⟩
    · congr 1
      unfold wordBytes
      split <;> omega
    · unfold wordBytes
      by_cases hp : wordPath s d (transferAt desc s)
      · have hlen := hp.2.1
        rw [if_pos hp, if_pos hp, if_neg (by omega)]
      · rw [if_neg hp, if_neg hp, if_pos rfl]
    · congr 1
      unfold wordBytes
      split
      · rfl
      · split <;> omega

end Sys2Proof.Machine
end

section
/-! SUPPORT. One Transfer of a Message (spec/43_cs_sequencer.md R136 to R141): the events of selecting and deselecting as
the views of the claims show them, the state at its XFER, and when it is refused. -/

namespace Sys2Proof.Machine

/-! ### Views of the events between two XFERs (R41, R90, R136, R137) -/

/-- The address of a 4-byte read. -/
def wordReadOf : Event → Option Word
  | .memRead a n _ => if n = 4 then some a else none
  | _ => none

theorem wordReadsSince_eq (s t : State) : wordReadsSince s t = (eventsSince s t).filterMap wordReadOf := rfl

/-- A view that shows none of the events of a run shows nothing of it. -/
theorem Replays.view_eq_nil {P : Event → Prop} {s t : State} (h : Replays P s t) {α : Type} {f : Event → Option α}
    (hf : ∀ e, P e → f e = none) : (eventsSince s t).filterMap f = [] := by
  obtain ⟨l, hl, hP⟩ := h
  rw [eventsSince_of_append hl.trace]
  exact List.filterMap_eq_nil_iff.2 fun e he => hf e (hP e he)

theorem Replays.grows {P : Event → Prop} {s t : State} (h : Replays P s t) : s.trace <+: t.trace := by
  obtain ⟨l, hl, -⟩ := h
  exact ⟨l, hl.trace.symm⟩

/-- An XFER drives no line but SCK and MOSI. -/
theorem XferEvent.levelOf_eq_none {c : Config} {t : Transfer} {n : Nat} (hn : n < 32) (hsck : c.sck ≠ n) (hmosi : c.mosi ≠ n)
    {e : Event} (h : XferEvent c t e) : levelOf n e = none := by
  cases h
  case sck => rw [levelOf_levelEvent hn, if_neg hsck]
  case mosi => rw [levelOf_levelEvent hn, if_neg hmosi]
  all_goals rfl

/-- An XFER reads single bytes. -/
theorem XferEvent.wordReadOf_eq_none {c : Config} {t : Transfer} {e : Event} (h : XferEvent c t e) : wordReadOf e = none := by
  cases h <;> rfl

theorem levelOf_lineSet_of_not_mem {n : Nat} {high low : Word} (hh : high.getLsbD n = false) (hl : low.getLsbD n = false) :
    levelOf n (.lineSet high low) = none := by
  simp only [levelOf, hh, hl, Bool.false_eq_true, if_false]

/-- A slot that does not exist has no hook and line 32. -/
theorem slot_of_absent {c : Config} {e : Slot} (h : c.hasSlot e = false) : c.slot e = { cs := 32 } := by
  have hge : ¬ e.toNat < c.slots.length := of_decide_eq_false h
  unfold Config.slot
  rw [List.getD_eq_default _ _ (Nat.not_lt.1 hge)]

/-- The hooks of any slot leave the select line of an existing one alone. -/
theorem getLsbD_hooks_cs {c : Config} (hc : c.wf = true) {d : Slot} (hd : c.hasSlot d = true) (e : Slot) :
    (c.slot e).auxHigh.getLsbD (c.slot d).cs = false ∧ (c.slot e).auxLow.getLsbD (c.slot d).cs = false ∧
      (c.slot e).strobe.getLsbD (c.slot d).cs = false := by
  cases he : c.hasSlot e with
  | true =>
    exact (Config.wf_hooks hc (Config.slot_mem he)).2 _ (Config.wf_cs hc hd).1
      (.inr (.inr (.inr (.inl ⟨_, Config.slot_mem hd, rfl⟩))))
  | false => rw [slot_of_absent he]; exact ⟨BitVec.getLsbD_zero, BitVec.getLsbD_zero, BitVec.getLsbD_zero⟩

section
variable {s : State} {d : Slot} (hc : s.cfg.wf = true) (hd : s.cfg.hasSlot d = true)
include hc hd

/-- CS_ASSERT puts the device's select at its active level. -/
theorem levels_assertEvents : (assertEvents s d).filterMap (levelOf (s.cfg.slot d).cs) = [(s.dev d).csHigh] := by
  obtain ⟨hcs, hsck, -⟩ := Config.wf_cs hc hd
  obtain ⟨hhigh, hlow, -⟩ := getLsbD_hooks_cs hc hd d
  have hhook : (if (s.cfg.slot d).auxHigh ||| (s.cfg.slot d).auxLow = 0 then []
      else [Event.lineSet (s.cfg.slot d).auxHigh (s.cfg.slot d).auxLow]).filterMap (levelOf (s.cfg.slot d).cs) = [] := by
    split
    · rfl
    · rw [List.filterMap_cons, levelOf_lineSet_of_not_mem hhigh hlow]; rfl
  unfold assertEvents
  rw [List.filterMap_append, hhook, filterMap_levelEvent hcs, filterMap_levelEvent hcs, if_neg hsck.symm, if_pos rfl]
  rfl

/-- CS_DEASSERT of any slot puts the select of `d` at its inactive level when it is that slot's, else nowhere. -/
theorem levels_deassertEvents (e : Slot) : (deassertEvents s e).filterMap (levelOf (s.cfg.slot d).cs) =
    if e = d then [!(s.dev d).csHigh] else [] := by
  obtain ⟨hcs, -⟩ := Config.wf_cs hc hd
  obtain ⟨hhigh, hlow, hstrobe⟩ := getLsbD_hooks_cs hc hd e
  have hzero : (0 : Word).getLsbD (s.cfg.slot d).cs = false := BitVec.getLsbD_zero
  have hundo : (if (s.cfg.slot e).auxHigh ||| (s.cfg.slot e).auxLow = 0 then []
      else [Event.lineSet (s.cfg.slot e).auxLow (s.cfg.slot e).auxHigh]).filterMap (levelOf (s.cfg.slot d).cs) = [] := by
    split
    · rfl
    · rw [List.filterMap_cons, levelOf_lineSet_of_not_mem hlow hhigh]; rfl
  have hpulse : (if (s.cfg.slot e).strobe = 0 then []
      else [Event.lineSet (s.cfg.slot e).strobe 0, .lineSet 0 (s.cfg.slot e).strobe]).filterMap
        (levelOf (s.cfg.slot d).cs) = [] := by
    split
    · rfl
    · rw [List.filterMap_cons, levelOf_lineSet_of_not_mem hstrobe hzero, List.filterMap_cons,
        levelOf_lineSet_of_not_mem hzero hstrobe]; rfl
  have hline : (s.cfg.slot e).cs = (s.cfg.slot d).cs ↔ e = d := by
    refine ⟨fun heq => ?_, fun h => h ▸ rfl⟩
    cases he : s.cfg.hasSlot e with
    | true => exact Config.wf_cs_inj hc he hd heq
    | false =>
      rw [slot_of_absent he] at heq
      have h32 : 32 = (s.cfg.slot d).cs := heq
      omega
  unfold deassertEvents
  rw [List.filterMap_append, List.filterMap_append, hundo, hpulse, filterMap_levelEvent hcs, List.append_nil,
    List.append_nil, List.filterMap_nil, List.append_nil]
  by_cases h : e = d
  · rw [if_pos (hline.2 h), if_pos h, h]
  · rw [if_neg fun heq => h (hline.1 heq), if_neg h]

/-- Releasing another device's select leaves that of `d` alone. -/
theorem levels_releaseEvents {h : Option Slot} (hh : h ≠ some d) :
    (releaseEvents s h).filterMap (levelOf (s.cfg.slot d).cs) = [] := by
  cases h with
  | none => rfl
  | some e => exact (levels_deassertEvents hc hd e).trans (if_neg fun he : e = d => hh (congrArg some he))

end

theorem wordReads_assertEvents (s : State) (d : Slot) : (assertEvents s d).filterMap wordReadOf = [] := by
  unfold assertEvents
  simp only
  split <;> rfl

theorem wordReads_deassertEvents (s : State) (d : Slot) : (deassertEvents s d).filterMap wordReadOf = [] := by
  unfold deassertEvents
  simp only
  split <;> split <;> rfl

theorem wordReads_releaseEvents (s : State) (h : Option Slot) : (releaseEvents s h).filterMap wordReadOf = [] := by
  cases h
  · rfl
  · exact wordReads_deassertEvents s _

/-! ### Selecting depends on control only -/

section
variable {s x : State} (h : SameControl s x)
include h

theorem assertEvents_congr (d : Slot) : assertEvents x d = assertEvents s d := by
  unfold assertEvents; rw [h.cfg, h.dev]

theorem deassertEvents_congr (d : Slot) : deassertEvents x d = deassertEvents s d := by
  unfold deassertEvents; rw [h.cfg, h.dev]

theorem releaseEvents_congr (held : Option Slot) : releaseEvents x held = releaseEvents s held := by
  cases held
  · rfl
  · exact deassertEvents_congr h _

theorem effHz_congr (d : Slot) (t : Transfer) : effHz d t x = effHz d t s := by
  unfold effHz; rw [h.dev]

end

/-! ### What carries over from one XFER to the next -/

/-- From `p` to `x` the events `l` are appended, and memory, the script, the mode latch and the speed state stay. -/
structure Carried (l : List Event) (p x : State) : Prop where
  trace : x.trace = p.trace ++ l
  mem : x.mem = p.mem
  script : x.lineScript = p.lineScript
  latch : x.latch = p.latch
  speed : x.speed = p.speed

theorem Carried.trans {l l' : List Event} {p x y : State} (h : Carried l p x) (k : Carried l' x y) :
    Carried (l ++ l') p y where
  trace := by rw [k.trace, h.trace, List.append_assoc]
  mem := k.mem.trans h.mem
  script := k.script.trans h.script
  latch := k.latch.trans h.latch
  speed := k.speed.trans h.speed

theorem carried_csDeassert (d : Slot) (x : State) : Carried (deassertEvents x d) x (csDeassert d x) := by
  rw [csDeassert_eq]; exact ⟨rfl, rfl, rfl, rfl, rfl⟩

theorem carried_releaseHeld (held : Option Slot) (x : State) : Carried (releaseEvents x held) x (releaseHeld held x) := by
  obtain ⟨out, heq⟩ := releaseHeld_eq held x
  rw [heq]; exact ⟨rfl, rfl, rfl, rfl, rfl⟩

/-! ### The state at an XFER (R136, R139) -/

/-- The state at the XFER of the `k`-th Transfer of the Message at `m`, from `x`: its descriptor is read, the select is
asserted unless it is, and its speed is in force. -/
def beforeXfer (s : State) (d : Slot) (m : Word) (k : Nat) (asserted : Bool) (x : State) : State :=
  let read := (readTransfer (s.transferAddr m k) (setXi k x)).2
  let selected := if asserted then read else csAssert d read
  if selected.speed.curHz = some (effHz d (s.transferOf m k) s) then selected
  else setSpeed (effHz d (s.transferOf m k) s) selected

/-- The events from reaching the `k`-th Transfer to its XFER. -/
def reachEvents (s : State) (d : Slot) (m : Word) (k : Nat) (asserted : Bool) : List Event :=
  descriptorEvents s m k ++ if asserted then [] else assertEvents s d

/-- The array of a Message that starts. -/
theorem MessageStarts.arrayKept {s : State} {d : Slot} {m : Word} (h : MessageStarts s d m) : ArrayKept s m := by
  have harray := h.array
  unfold transfersOk at harray
  rw [Bool.and_eq_true] at harray
  exact ⟨h.notRaced, of_decide_eq_true harray.2, h.kept⟩

theorem MessageStarts.hasSlot {s : State} {d : Slot} {m : Word} (h : MessageStarts s d m) : s.cfg.hasSlot d = true :=
  hasSlot_of_ready h.operands.1

/-- The address of a descriptor of a legal array is legal. -/
theorem MessageStarts.descriptorAddress {s : State} {d : Slot} {m : Word} (h : MessageStarts s d m) {k : Nat}
    (hk : k < s.transferCount m) : descriptorAddress (s.transferAddr m k) = true := by
  have harray := h.array
  have haddr := h.arrayKept.toNat_addr hk
  unfold transfersOk Sys2Proof.descriptorAddress at harray
  simp only [Bool.and_eq_true, decide_eq_true_eq] at harray
  obtain ⟨⟨hne, halign⟩, -⟩ := harray
  have hptr : (s.wordAt m).toNat ≠ 0 := fun h0 => hne (BitVec.eq_of_toNat_eq h0)
  unfold Sys2Proof.descriptorAddress
  simp only [Bool.and_eq_true, decide_eq_true_eq]
  refine ⟨fun h0 => ?_, by omega⟩
  rw [h0] at haddr
  exact hptr (by have : (0 : Word).toNat = 0 := rfl; omega)

/-- A Transfer's effective speed is not 0. -/
theorem MessageStarts.effHz_ne_zero {s : State} {d : Slot} {m : Word} (h : MessageStarts s d m) (t : Transfer) :
    effHz d t s ≠ 0 := by
  unfold effHz
  split
  · exact h.speed
  · assumption

section
variable {s x : State} {d : Slot} {m : Word} {k : Nat} (hs : MessageStarts s d m) (hk : k < s.transferCount m)
  (hx : KeptBefore s m k x)
include hs hk hx

/-- What the descriptor reads see and do. -/
theorem readTransfer_kept :
    ∃ draws, readTransfer (s.transferAddr m k) (setXi k x) = (s.transferOf m k, { setXi k x with
      draws := draws, trace := x.trace ++ descriptorEvents s m k }) := by
  have hxi : KeptBefore s m k (setXi k x) := hx.of_mem (sameControl_setXi k x) rfl
  have hdesc := hxi.transferAt hs.arrayKept hk
  have hevents : descriptorEvents s m k = let a := s.transferAddr m k
      let t := transferAt a (setXi k x)
      [.memRead a 4 t.txPtr, .memRead (a + 4) 4 t.rxPtr, .memRead (a + 8) 4 t.len, .memRead (a + 12) 4 t.speedHz,
        .memRead (a + 16) 4 t.flags] := by
    simp only [hdesc, descriptorEvents]
  refine ⟨(setXi k x).draws + 5, ?_⟩
  rw [readTransfer_eq (hxi.control.raced.trans hs.notRaced), hdesc, hevents]
  rfl

theorem beforeXfer_spec (asserted : Bool) :
    SameControl x (beforeXfer s d m k asserted x) ∧ KeptBefore s m k (beforeXfer s d m k asserted x) ∧
      (beforeXfer s d m k asserted x).trace = x.trace ++ reachEvents s d m k asserted ∧
      (beforeXfer s d m k asserted x).mem = x.mem ∧
      (beforeXfer s d m k asserted x).lineScript = x.lineScript ∧
      (beforeXfer s d m k asserted x).latch = latchAt s d asserted x.latch ∧
      (beforeXfer s d m k asserted x).speed = speedAt s.cfg (effHz d (s.transferOf m k) s) x.speed := by
  obtain ⟨draws, hread⟩ := readTransfer_kept hs hk hx
  let read : State := { setXi k x with draws := draws, trace := x.trace ++ descriptorEvents s m k }
  let selected := if asserted then read else csAssert d read
  have hreadControl : SameControl x read := by constructor <;> rfl
  have hselected : SameControl x selected ∧ selected.trace = x.trace ++ reachEvents s d m k asserted ∧
      selected.mem = x.mem ∧ selected.lineScript = x.lineScript ∧ selected.latch = latchAt s d asserted x.latch ∧
      selected.speed = x.speed := by
    cases asserted with
    | true => exact ⟨hreadControl, congrArg (x.trace ++ ·) (List.append_nil _).symm, rfl, rfl, rfl, rfl⟩
    | false =>
      have hcontrol : SameControl s read := hx.control.trans hreadControl
      refine ⟨hreadControl.trans (sameControl_csAssert d read), ?_⟩
      show (csAssert d read).trace = _ ∧ (csAssert d read).mem = _ ∧ (csAssert d read).lineScript = _ ∧
        (csAssert d read).latch = _ ∧ (csAssert d read).speed = _
      rw [csAssert_eq]
      refine ⟨?_, rfl, rfl, ?_, rfl⟩
      · exact (congrArg (read.trace ++ ·) (assertEvents_congr hcontrol d)).trans (List.append_assoc _ _ _)
      · simp only [latchAt, hcontrol.dev, Bool.false_eq_true, if_false]
  have hbefore : beforeXfer s d m k asserted x =
      if selected.speed.curHz = some (effHz d (s.transferOf m k) s) then selected
      else setSpeed (effHz d (s.transferOf m k) s) selected := by
    unfold beforeXfer
    rw [hread]
  obtain ⟨hcontrol, htrace, hmem, hscript, hlatch, hspeed⟩ := hselected
  have hcfg : selected.cfg = s.cfg := hcontrol.cfg.trans hx.control.cfg
  rw [hbefore]
  unfold speedAt
  rw [← hspeed]
  split
  · exact ⟨hcontrol, hx.of_mem hcontrol hmem, htrace, hmem, hscript, hlatch, rfl⟩
  · have hset := hcontrol.trans (sameControl_setSpeed (effHz d (s.transferOf m k) s) selected)
    exact ⟨hset, hx.of_mem hset hmem, htrace, hmem, hscript, hlatch, congrArg (speedFor · _) hcfg⟩

/-- The clock phase at the XFER is one the engine supports (R103). -/
theorem phase_beforeXfer (hphase : x.latch.cpha = true → s.cfg.cpha1Supported = true) (asserted : Bool) :
    (beforeXfer s d m k asserted x).latch.cpha = true → s.cfg.cpha1Supported = true := by
  obtain ⟨-, -, -, -, -, hlatch, -⟩ := beforeXfer_spec hs hk hx asserted
  rw [hlatch]
  unfold latchAt
  cases asserted
  · exact hs.phase
  · exact hphase

/-- One Transfer of a Message is its XFER when its descriptor is legal, and is refused when it is not. -/
theorem runTransfer_eq (hphase : x.latch.cpha = true → s.cfg.cpha1Supported = true) (asserted : Bool) :
    runTransfer d (s.transferAddr m k) asserted (setXi k x) =
      if descriptorOk s m k then
        .ok (s.transferOf m k, xfer d (s.transferOf m k) (beforeXfer s d m k asserted x))
      else .error .malformedDescriptor := by
  obtain ⟨draws, hread⟩ := readTransfer_kept hs hk hx
  obtain ⟨hcontrol, -⟩ := beforeXfer_spec hs hk hx asserted
  have hcfg : (setXi k x).cfg = s.cfg := hx.control.cfg
  have hphase' := phase_beforeXfer hs hk hx hphase asserted
  rw [← hx.control.cfg, ← hcontrol.cfg] at hphase'
  unfold runTransfer
  rw [hcfg]
  unfold beforeXfer at hphase' ⊢
  rw [hread] at hphase' ⊢
  simp only at hphase' ⊢
  by_cases hok : descriptorOk s m k
  · rw [if_pos hok, if_pos (by rw [hok.1, hok.2]; rfl)]
    generalize hsel : (if asserted = true then _ else csAssert d _ : State) = selected at hphase' ⊢
    have hsame : SameControl s selected := by
      have hr : SameControl s { setXi k x with draws := draws, trace := x.trace ++ descriptorEvents s m k } :=
        hx.control.trans (by constructor <;> rfl)
      rw [← hsel]
      split
      · exact hr
      · exact hr.trans (sameControl_csAssert d _)
    rw [effHz_congr hsame, applySpeed_eq _ _ (hs.effHz_ne_zero _)]
    simp only
    rw [xferChecked_eq hphase']
  · rw [if_neg hok, if_neg fun h => hok (Bool.and_eq_true_iff.1 h)]

end

end Sys2Proof.Machine
end

section
/-! SUPPORT. The executed Transfers of a Message as a chain of XFERs (spec/43_cs_sequencer.md R139 to R143): what any chain
of them shows on the trace, leaves in memory and uses of the script. -/

namespace Sys2Proof.Machine

/-! ### One XFER of a Message (R139) -/

/-- The `k`-th Transfer of the Message at `m`, started at `s`: from `p`, the end of what came before it, its XFER is reached
at `q.1`, with a legal descriptor, and ends at `q.2`. -/
structure XferRun (s : State) (d : Slot) (m : Word) (k : Nat) (p : State) (q : State × State) : Prop where
  trace : q.1.trace = p.trace ++ eventsBefore s d m k
  mem : q.1.mem = p.mem
  script : q.1.lineScript = p.lineScript
  latch : q.1.latch = latchAt s d (assertedBefore s d m k) p.latch
  speed : q.1.speed = speedAt s.cfg (effHz d (s.transferOf m k) s) p.speed
  control : SameControl s q.1
  descriptor : transferAt (s.transferAddr m k) q.1 = s.transferOf m k
  legal : descriptorOk s m k
  exec : exec (.xfer d (s.transferAddr m k)) q.1 = .next q.2

section
variable {s p : State} {d : Slot} {m : Word} {k : Nat} {q : State × State} (h : XferRun s d m k p q)
include h

/-- Its end is that of XFER, with the count in `ret`. -/
theorem XferRun.end_eq : q.2 = { (xfer d (s.transferOf m k) q.1).2 with ret := (xfer d (s.transferOf m k) q.1).1 } := by
  have heq := (exec_xfer_eq (xferRuns_of_next h.exec)).symm.trans h.exec
  rw [h.descriptor] at heq
  exact (Host.Outcome.next.inj heq).symm

theorem XferRun.count_le : q.2.ret.toNat ≤ (s.transferOf m k).len.toNat := by
  rw [h.end_eq]; exact xfer_count_le d _ _

/-- XFER keeps the mode latch and the speed state. -/
theorem XferRun.end_modes : q.2.latch = q.1.latch ∧ q.2.speed = q.1.speed := by
  have hsame := sameTransfer_xfer d (s.transferOf m k) q.1
  rw [h.end_eq]
  exact ⟨hsame.latch, hsame.speed⟩

/-- Memory outside its rx buffer is as before. -/
theorem XferRun.read_eq {a : Nat} (ha : outsideRx (s.transferOf m k) a) : q.2.mem.read a = p.mem.read a := by
  rw [h.end_eq, ← h.mem]
  exact read_xfer h.legal.2 ha

/-- Its XFER clocks the bytes of `bytesClocked`, when the engine has no faults. -/
theorem XferRun.clocked (hf : s.cfg.hwFaults = []) :
    Clocked d (s.transferOf m k) (wordBytes q.1 d (s.transferOf m k)) (bytesClocked (s.transferOf m k) q.2.ret) q.1
        (xfer d (s.transferOf m k) q.1).2 ∧
      ((s.transferOf m k).verify = false → q.2.ret = (s.transferOf m k).len) := by
  have hret : q.2.ret = (xfer d (s.transferOf m k) q.1).1 := by rw [h.end_eq]
  rw [hret]
  exact clocked_xfer h.legal.2 (.inr (h.control.cfg ▸ hf))

/-- It sends the bytes of its tx buffer, two clock edges a bit, when the engine has no faults. -/
theorem XferRun.sends (hf : s.cfg.hwFaults = []) (hc : s.cfg.wf = true) (hraced : s.raced = [])
    (hapart : buffersApart (s.transferOf m k)) :
    levelsSince s.cfg.mosi q.1 q.2 =
        q.1.dataLevels (s.transferOf m k) (bytesClocked (s.transferOf m k) q.2.ret) ∧
      levelsSince s.cfg.sck q.1 q.2 = clockLevels q.1.latch.cpol (bytesClocked (s.transferOf m k) q.2.ret) := by
  obtain ⟨hclocked, -⟩ := h.clocked hf
  have hcfg := h.control.cfg
  have hlevels : ∀ n, levelsSince n q.1 q.2 = levelsSince n q.1 (xfer d (s.transferOf m k) q.1).2 := fun n => by
    rw [h.end_eq]; rfl
  rw [hlevels, hlevels, ← hcfg]
  rw [← hcfg] at hc
  exact ⟨hclocked.data hc (h.control.raced.trans hraced) hapart, hclocked.clock hc⟩

/-- Its XFER uses at most 8 answers a byte, when the engine has no faults. -/
theorem XferRun.script_le (hf : s.cfg.hwFaults = []) :
    p.lineScript.length ≤ q.2.lineScript.length + 8 * (s.transferOf m k).len.toNat := by
  obtain ⟨hclocked, -⟩ := h.clocked hf
  have hbytes : bytesClocked (s.transferOf m k) q.2.ret ≤ (s.transferOf m k).len.toNat := by
    unfold bytesClocked
    split
    · exact Nat.min_le_right _ _
    · exact Nat.le_refl _
  have hend : q.2.lineScript = (xfer d (s.transferOf m k) q.1).2.lineScript := by rw [h.end_eq]
  have hwords := wordBytes_le q.1 d (s.transferOf m k)
  rw [hend, hclocked.script, h.script, List.length_drop]
  split <;> omega

/-- A view that shows no event of an XFER shows the events before it only. -/
theorem XferRun.view {α : Type} {f : Event → Option α} (hf : ∀ e, XferEvent s.cfg (s.transferOf m k) e → f e = none) :
    p.trace <+: q.2.trace ∧ (eventsSince p q.2).filterMap f = (eventsBefore s d m k).filterMap f := by
  have hxfer : Replays (XferEvent s.cfg (s.transferOf m k)) q.1 q.2 := by
    rw [h.end_eq, ← h.control.cfg]
    exact (replays_xfer d (s.transferOf m k) q.1).trans (.of_eq rfl rfl rfl rfl)
  have hto : p.trace <+: q.1.trace := ⟨_, h.trace.symm⟩
  refine ⟨hto.trans hxfer.grows, ?_⟩
  rw [eventsSince_trans hto hxfer.grows, List.filterMap_append, eventsSince_of_append h.trace, hxfer.view_eq_nil hf,
    List.append_nil]

end

/-! ### Chains of XFERs -/

/-- The counts moved by XFERs. -/
def counts (runs : List (State × State)) : List Word := runs.map (·.2.ret)

theorem length_counts (runs : List (State × State)) : (counts runs).length = runs.length := List.length_map _

theorem getD_counts {runs : List (State × State)} {k : Nat} {q : State × State} (h : runs[k]? = some q) :
    (counts runs).getD k 0 = q.2.ret := by
  rw [counts, List.getD_eq_getElem?_getD, List.getElem?_map, h]; rfl

/-- The Transfers of the Message up to `p`, in order, with the states before and after each XFER. -/
inductive Executed (s : State) (d : Slot) (m : Word) : List (State × State) → State → Prop
  | start : Executed s d m [] s
  | next {runs : List (State × State)} {p : State} {q : State × State} : Executed s d m runs p →
      XferRun s d m runs.length p q → Executed s d m (runs ++ [q]) q.2

/-- Where the `k`-th Transfer comes from. -/
def cameFrom (s : State) (runs : List (State × State)) : Nat → State
  | 0 => s
  | k + 1 => ((runs[k]?).map Prod.snd).getD s

section
variable {s : State} {d : Slot} {m : Word}

theorem cameFrom_succ {runs : List (State × State)} {k : Nat} {q : State × State} (h : runs[k]? = some q) :
    cameFrom s runs (k + 1) = q.2 := by
  show ((runs[k]?).map Prod.snd).getD s = q.2
  rw [h]; rfl

theorem cameFrom_append {runs : List (State × State)} {k : Nat} (hk : k ≤ runs.length) (q : State × State) :
    cameFrom s (runs ++ [q]) k = cameFrom s runs k := by
  cases k with
  | zero => rfl
  | succ k =>
    show (((runs ++ [q])[k]?).map Prod.snd).getD s = ((runs[k]?).map Prod.snd).getD s
    rw [List.getElem?_append_left hk]

theorem Executed.cameFrom_eq {runs : List (State × State)} {p : State} (h : Executed s d m runs p) :
    cameFrom s runs runs.length = p := by
  cases h with
  | start => rfl
  | next h hq =>
    rw [List.length_append]
    show (((_ ++ [_] : List (State × State))[_]?).map Prod.snd).getD s = _
    simp

/-- Each of the executed Transfers is one, from the end of the one before it. -/
theorem Executed.run {runs : List (State × State)} {p : State} (h : Executed s d m runs p) :
    ∀ {k : Nat} {q : State × State}, runs[k]? = some q → XferRun s d m k (cameFrom s runs k) q := by
  induction h with
  | start => intro k q hk; cases hk
  | @next runs p r h hr ih =>
    intro k q hk
    rcases Nat.lt_trichotomy k runs.length with hlt | rfl | hgt
    · rw [List.getElem?_append_left hlt] at hk
      rw [cameFrom_append (Nat.le_of_lt hlt)]
      exact ih hk
    · rw [List.getElem?_concat_length] at hk
      obtain rfl := Option.some.inj hk
      rw [cameFrom_append (Nat.le_refl _), h.cameFrom_eq]
      exact hr
    · rw [List.getElem?_eq_none (by rw [List.length_append]; exact hgt)] at hk
      cases hk

/-- The last one ends where the chain does. -/
theorem Executed.getLast {runs : List (State × State)} {p : State} (h : Executed s d m runs p) {q : State × State}
    (hq : runs.getLast? = some q) : q.2 = p := by
  cases h with
  | start => cases hq
  | next h hr => rw [List.getLast?_concat] at hq; rw [Option.some.inj hq]

/-- Memory outside the rx buffers of the executed Transfers is as it was. -/
theorem Executed.read_eq {runs : List (State × State)} {p : State} (h : Executed s d m runs p) {a : Nat} :
    (∀ k < runs.length, outsideRx (s.transferOf m k) a) → p.mem.read a = s.mem.read a := by
  induction h with
  | start => exact fun _ => rfl
  | next h hr ih =>
    intro hout
    rw [List.length_append] at hout
    exact (hr.read_eq (hout _ (Nat.lt_succ_self _))).trans (ih fun k hk => hout k (Nat.lt_succ_of_lt hk))

/-- A view that shows no event of an XFER shows what lies between them. -/
theorem Executed.view {α : Type} {f : Event → Option α} (hf : ∀ (x : Transfer) e, XferEvent s.cfg x e → f e = none)
    {runs : List (State × State)} {p : State} (h : Executed s d m runs p) :
    s.trace <+: p.trace ∧ (eventsSince s p).filterMap f =
      (List.range runs.length).flatMap fun k => (eventsBefore s d m k).filterMap f := by
  induction h with
  | start => exact ⟨List.prefix_rfl, by rw [eventsSince_self]; rfl⟩
  | next h hr ih =>
    obtain ⟨hto, hview⟩ := hr.view (hf _)
    refine ⟨ih.1.trans hto, ?_⟩
    rw [eventsSince_trans ih.1 hto, List.filterMap_append, ih.2, hview, List.length_append, List.length_singleton,
      List.range_succ, List.flatMap_append, List.flatMap_singleton]

/-- The bytes the first `n` Transfers of the Message have at most. -/
def totalLen (s : State) (m : Word) (n : Nat) : Nat := ((List.range n).map fun k => (s.transferOf m k).len.toNat).sum

theorem totalLen_succ (s : State) (m : Word) (n : Nat) :
    totalLen s m (n + 1) = totalLen s m n + (s.transferOf m n).len.toNat := by
  unfold totalLen
  rw [List.range_succ, List.map_append, List.sum_append]; rfl

/-- The script is used at most by 8 answers a byte, when the engine has no faults. -/
theorem Executed.script_le (hf : s.cfg.hwFaults = []) {runs : List (State × State)} {p : State}
    (h : Executed s d m runs p) : s.lineScript.length ≤ p.lineScript.length + 8 * totalLen s m runs.length := by
  induction h with
  | start => exact Nat.le_add_right _ _
  | next h hr ih =>
    have := hr.script_le hf
    rw [List.length_append, List.length_singleton, totalLen_succ]
    omega

/-- Without engine faults each executed Transfer leaves the bytes the slave answered in its rx buffer, where no later one
overwrites them (R46, R110). -/
theorem Executed.stored (hf : s.cfg.hwFaults = []) {runs : List (State × State)} {p : State} (h : Executed s d m runs p) :
    8 * totalLen s m runs.length ≤ s.lineScript.length →
    ∀ {k : Nat} {q : State × State}, runs[k]? = some q →
      (s.transferOf m k).verify = false → (s.transferOf m k).rxPtr ≠ 0 →
    ∀ {j : Nat}, j < (s.transferOf m k).len.toNat →
      (∀ i, k < i → i < runs.length → outsideRx (s.transferOf m i) ((s.transferOf m k).rxPtr.toNat + j)) →
      p.mem.read ((s.transferOf m k).rxPtr.toNat + j) = some (q.1.slaveByte j) := by
  induction h with
  | start => intro _ k q hk; cases hk
  | @next runs p r h hr ih =>
    intro hscript k q hk hv hrx j hj hlater
    rw [List.length_append, List.length_singleton] at hscript hlater
    rw [totalLen_succ] at hscript
    rcases Nat.lt_trichotomy k runs.length with hlt | rfl | hgt
    · rw [List.getElem?_append_left hlt] at hk
      rw [hr.read_eq (hlater _ hlt (Nat.lt_succ_self _))]
      exact ih (by omega) hk hv hrx hj fun i hki hi => hlater i hki (Nat.lt_succ_of_lt hi)
    · rw [List.getElem?_concat_length] at hk
      obtain rfl := Option.some.inj hk
      obtain ⟨hclocked, -⟩ := hr.clocked hf
      have hall : bytesClocked (s.transferOf m runs.length) r.2.ret = (s.transferOf m runs.length).len.toNat :=
        if_neg (by rw [hv]; exact Bool.false_ne_true)
      rw [hall] at hclocked
      have hbudget := h.script_le hf
      rw [hr.end_eq]
      exact hclocked.stored hv hrx (by rw [hr.script]; omega) j hj
    · rw [List.getElem?_eq_none (by rw [List.length_append]; exact hgt)] at hk
      cases hk

/-- The engine supports the clock phase in force. -/
theorem Executed.phase (hs : MessageStarts s d m) {runs : List (State × State)} {p : State} (h : Executed s d m runs p) :
    p.latch.cpha = true → s.cfg.cpha1Supported = true := by
  induction h with
  | start => exact hs.heldPhase
  | next h hr ih =>
    rw [hr.end_modes.1, hr.latch]
    unfold latchAt
    split
    · exact ih
    · exact hs.phase

/-- The speed in force is that of the last executed Transfer. -/
theorem Executed.speed {runs : List (State × State)} {p : State} (h : Executed s d m runs p) (hne : 0 < runs.length) :
    p.speed.curHz = some (effHz d (s.transferOf m (runs.length - 1)) s) := by
  cases h with
  | start => exact absurd hne (Nat.lt_irrefl 0)
  | next h hr =>
    rw [hr.end_modes.2, hr.speed, List.length_append, List.length_singleton, Nat.add_sub_cancel]
    unfold speedAt
    split
    · assumption
    · rfl

end

end Sys2Proof.Machine
end

section
/-! SUPPORT. The Transfers of a Message in order (spec/43_cs_sequencer.md R139 to R143): every Message that starts is a chain
of XFERs that ends with its result, or stops at the first illegal descriptor. -/

namespace Sys2Proof.Machine

/-! ### Reaching the next Transfer -/

/-- The events from the end of an XFER, or from the start of the Message, until the next Transfer is reached. -/
def gapEvents (s : State) (d : Slot) (m : Word) : Nat → List Event
  | 0 => [.memRead m 4 (s.wordAt m), .memRead (m + 4) 4 (s.wordAt (m + 4))] ++
      if s.heldCs = some d then [] else releaseEvents s s.heldCs
  | k + 1 => if (s.transferOf m k).csChange then deassertEvents s d else []

theorem eventsBefore_eq (s : State) (d : Slot) (m : Word) (k : Nat) :
    eventsBefore s d m k = gapEvents s d m k ++ reachEvents s d m k (assertedBefore s d m k) := by
  cases k <;> exact List.append_assoc _ _ _

/-- Every Transfer executed so far moved its `len`. -/
def AllComplete (s : State) (m : Word) (runs : List (State × State)) : Prop :=
  ∀ k < runs.length, (counts runs).getD k 0 = (s.transferOf m k).len

/-- `x` is where the Transfer after the executed ones is reached. -/
structure Reaches (s : State) (d : Slot) (m : Word) (runs : List (State × State)) (p x : State) : Prop where
  executed : Executed s d m runs p
  carried : Carried (gapEvents s d m runs.length) p x
  control : SameControl s x

variable {s : State} {d : Slot} {m : Word} {runs : List (State × State)} {p x : State}

theorem Reaches.kept (h : Reaches s d m runs p x) : KeptBefore s m runs.length x :=
  ⟨h.control, fun _ hout => h.carried.mem ▸ h.executed.read_eq hout⟩

/-- The states before and after the XFER of the Transfer reached at `x`. -/
def nextRun (s : State) (d : Slot) (m : Word) (k : Nat) (x : State) : State × State :=
  let before := beforeXfer s d m k (assertedBefore s d m k) x
  let moved := xfer d (s.transferOf m k) before
  (before, { moved.2 with ret := moved.1 })

/-- The Transfer reached is executed as an XFER when its descriptor is legal, and refused when it is not. -/
theorem Reaches.runTransfer_eq (h : Reaches s d m runs p x) (hs : MessageStarts s d m)
    (hk : runs.length < s.transferCount m) :
    runTransfer d (s.transferAddr m runs.length) (assertedBefore s d m runs.length) (setXi runs.length x) =
      if descriptorOk s m runs.length then
        .ok (s.transferOf m runs.length, xfer d (s.transferOf m runs.length) (nextRun s d m runs.length x).1)
      else .error .malformedDescriptor :=
  Machine.runTransfer_eq hs hk h.kept (h.carried.latch ▸ h.executed.phase hs) _

theorem Reaches.xferRun (h : Reaches s d m runs p x) (hs : MessageStarts s d m) (hk : runs.length < s.transferCount m)
    (hok : descriptorOk s m runs.length) : XferRun s d m runs.length p (nextRun s d m runs.length x) := by
  obtain ⟨hcontrol, hkept, htrace, hmem, hscript, hlatch, hspeed⟩ :=
    beforeXfer_spec hs hk h.kept (assertedBefore s d m runs.length)
  have hsame := h.control.trans hcontrol
  have hdesc := hkept.transferAt hs.arrayKept hk
  have hphase := phase_beforeXfer hs hk h.kept (h.carried.latch ▸ h.executed.phase hs) (assertedBefore s d m runs.length)
  have hexec := exec_xfer_eq (d := d) (desc := s.transferAddr m runs.length)
    (s := beforeXfer s d m runs.length (assertedBefore s d m runs.length) x)
    ⟨hsame.cfg ▸ hs.hasSlot, hs.descriptorAddress hk, hsame.cfg ▸ hok.1, by rw [hdesc, hsame.cfg]; exact hok.2,
      hsame.cfg ▸ hphase⟩
  rw [hdesc] at hexec
  exact {
    trace := by rw [eventsBefore_eq, ← List.append_assoc, ← h.carried.trace]; exact htrace
    mem := hmem.trans h.carried.mem
    script := hscript.trans h.carried.script
    latch := hlatch.trans (congrArg (latchAt s d _) h.carried.latch)
    speed := hspeed.trans (congrArg (speedAt s.cfg _) h.carried.speed)
    control := hsame
    descriptor := hdesc
    legal := hok
    exec := hexec }

/-! ### The end of a Message (R140, R141, R143) -/

/-- The result of a Message whose executed Transfers are `runs`. -/
structure Ended (s : State) (d : Slot) (m : Word) (runs : List (State × State)) (r : SeqResult) : Prop where
  executed : 0 < runs.length ∧ runs.length ≤ s.transferCount m
  before : ∀ k, k + 1 < runs.length → (counts runs).getD k 0 = (s.transferOf m k).len
  remaining : runs.length = s.transferCount m ∨
    (counts runs).getD (runs.length - 1) 0 ≠ (s.transferOf m (runs.length - 1)).len
  status : r.status =
    if (counts runs).getD (runs.length - 1) 0 = (s.transferOf m (runs.length - 1)).len then 0 else 1
  actual : r.actual = (counts runs).foldl (· + ·) 0
  held : r.held = if r.status = 0 ∧ (s.transferOf m (runs.length - 1)).csChange = true then some d else none

/-- The Transfers of a Message end with their result, or are refused at the first illegal descriptor, with all before it
complete. -/
def MessageEnds (s : State) (d : Slot) (m : Word) (res : Except Refusal (SeqResult × State)) : Prop :=
  (∃ runs p r x, Executed s d m runs p ∧ Ended s d m runs r ∧
    Carried (if r.held = none then deassertEvents s d else []) p x ∧ SameControl s x ∧ res = .ok (r, x)) ∨
  (∃ runs p, Executed s d m runs p ∧ AllComplete s m runs ∧ runs.length < s.transferCount m ∧
    ¬ descriptorOk s m runs.length ∧ res = .error .malformedDescriptor)

section
variable {ptr : Word} {left xi : Nat} {asserted : Bool} {actual : Word}

theorem runTransfers_of_error {e : Refusal}
    (h : runTransfer d (ptr + BitVec.ofNat 32 (20 * xi)) asserted (setXi xi x) = .error e) :
    runTransfers d ptr (left + 1) xi asserted actual x = .error e := by
  rw [runTransfers, h]

/-- After an XFER that ended at `y`: the select is released, or stays. -/
def afterXfer (d : Slot) (released : Bool) (y : State) : State := if released then csDeassert d y else y

theorem afterXfer_spec {q : State × State} {ret : Word} {y : State} (hq : q.2 = { y with ret := ret }) (hy : SameControl s y)
    (released : Bool) : Carried (if released then deassertEvents s d else []) q.2 (afterXfer d released y) ∧
      SameControl s (afterXfer d released y) := by
  have hsame : Carried [] q.2 y := by
    rw [hq]
    exact ⟨(List.append_nil _).symm, rfl, rfl, rfl, rfl⟩
  cases released with
  | false => exact ⟨hsame, hy⟩
  | true => exact ⟨deassertEvents_congr hy d ▸ hsame.trans (carried_csDeassert d y), hy.trans (sameControl_csDeassert d y)⟩

/-- A short Transfer ends the Message (R140). -/
theorem runTransfers_of_short {t : Transfer} {moved : Word × State}
    (h : runTransfer d (ptr + BitVec.ofNat 32 (20 * xi)) asserted (setXi xi x) = .ok (t, moved)) (hshort : moved.1 ≠ t.len) :
    runTransfers d ptr (left + 1) xi asserted actual x =
      .ok ({ held := none, status := 1, actual := actual + moved.1 }, afterXfer d true moved.2) := by
  rw [runTransfers, h]
  exact if_pos hshort

/-- After a complete Transfer the select is released exactly when its assertion ends (R141). -/
theorem runTransfers_of_complete {t : Transfer} {moved : Word × State}
    (h : runTransfer d (ptr + BitVec.ofNat 32 (20 * xi)) asserted (setXi xi x) = .ok (t, moved)) (hall : moved.1 = t.len) :
    runTransfers d ptr (left + 1) xi asserted actual x =
      runTransfers d ptr left (xi + 1) (!terminates t.csChange (decide (left = 0))) (actual + moved.1)
        (afterXfer d (terminates t.csChange (decide (left = 0))) moved.2) := by
  rw [runTransfers, h]
  refine (if_neg fun hne => hne hall).trans ?_
  cases terminates t.csChange (decide (left = 0)) <;> rfl

end

theorem foldl_counts_append (runs : List (State × State)) (q : State × State) :
    (counts (runs ++ [q])).foldl (· + ·) 0 = (counts runs).foldl (· + ·) 0 + q.2.ret := by
  unfold counts
  rw [List.map_append, List.foldl_append]; rfl

theorem getD_counts_append {k : Nat} (hk : k < runs.length) (q : State × State) :
    (counts (runs ++ [q])).getD k 0 = (counts runs).getD k 0 := by
  unfold counts
  rw [List.map_append, List.getD_eq_getElem?_getD, List.getElem?_append_left (by rw [List.length_map]; exact hk),
    ← List.getD_eq_getElem?_getD]

theorem getD_counts_last (runs : List (State × State)) (q : State × State) :
    (counts (runs ++ [q])).getD runs.length 0 = q.2.ret :=
  getD_counts List.getElem?_concat_length

theorem AllComplete.append (h : AllComplete s m runs) {q : State × State}
    (hq : q.2.ret = (s.transferOf m runs.length).len) : AllComplete s m (runs ++ [q]) := by
  intro k hk
  rw [List.length_append, List.length_singleton] at hk
  rcases Nat.lt_succ_iff_lt_or_eq.1 hk with hlt | rfl
  · exact (getD_counts_append hlt q).trans (h k hlt)
  · exact (getD_counts_last runs q).trans hq

/-- After complete Transfers, one more ends the Message when it is short or the last one. -/
theorem ended_append (h : AllComplete s m runs) (hk : runs.length < s.transferCount m) {q : State × State} {r : SeqResult}
    (hlast : runs.length + 1 = s.transferCount m ∨ q.2.ret ≠ (s.transferOf m runs.length).len)
    (hstatus : r.status = if q.2.ret = (s.transferOf m runs.length).len then 0 else 1)
    (hactual : r.actual = (counts runs).foldl (· + ·) 0 + q.2.ret)
    (hheld : r.held = if r.status = 0 ∧ (s.transferOf m runs.length).csChange = true then some d else none) :
    Ended s d m (runs ++ [q]) r := by
  have hlen : (runs ++ [q]).length = runs.length + 1 := List.length_append
  have hprev : (runs ++ [q]).length - 1 = runs.length := by rw [hlen, Nat.add_sub_cancel]
  constructor
  case executed => exact ⟨hlen ▸ Nat.succ_pos _, hlen ▸ hk⟩
  case before =>
    intro k hlt
    have hlt' : k < runs.length := by omega
    exact (getD_counts_append hlt' q).trans (h k hlt')
  case remaining => rw [hprev, hlen, getD_counts_last]; exact hlast
  case status => rw [hprev, getD_counts_last]; exact hstatus
  case actual => rw [foldl_counts_append]; exact hactual
  case held => rw [hprev]; exact hheld

/-- A Transfer reached that is not executed whole ends the Message, or has it refused. -/
theorem Reaches.messageEnds_or_complete (h : Reaches s d m runs p x) (hs : MessageStarts s d m)
    (hk : runs.length < s.transferCount m) (hall : AllComplete s m runs) (left : Nat) :
    MessageEnds s d m (runTransfers d (s.wordAt m) (left + 1) runs.length (assertedBefore s d m runs.length)
        ((counts runs).foldl (· + ·) 0) x) ∨
      (descriptorOk s m runs.length ∧ (nextRun s d m runs.length x).2.ret = (s.transferOf m runs.length).len) := by
  have hrun := h.runTransfer_eq hs hk
  by_cases hok : descriptorOk s m runs.length
  · rw [if_pos hok] at hrun
    by_cases hwhole : (nextRun s d m runs.length x).2.ret = (s.transferOf m runs.length).len
    · exact .inr ⟨hok, hwhole⟩
    · have hq := h.xferRun hs hk hok
      obtain ⟨hcarried, hcontrol⟩ := afterXfer_spec (d := d) hq.end_eq
        (hq.control.trans (sameTransfer_xfer d _ _).toSameControl) true
      refine .inl (.inl ⟨_, _, _, _, h.executed.next hq, ended_append hall hk (.inr hwhole) (if_neg hwhole).symm rfl ?_,
        hcarried, hcontrol, runTransfers_of_short hrun hwhole⟩)
      exact (if_neg fun hc => absurd hc.1 (show (1 : Word) ≠ 0 by decide)).symm
  · rw [if_neg hok] at hrun
    exact .inl (.inr ⟨runs, p, h.executed, hall, hk, hok, runTransfers_of_error hrun⟩)

/-- From any Transfer on, the Message ends or is refused. -/
theorem messageEnds_runTransfers (hs : MessageStarts s d m) : ∀ (left : Nat) (runs : List (State × State)) (p x : State),
    Reaches s d m runs p x → runs.length + (left + 1) = s.transferCount m → AllComplete s m runs →
    MessageEnds s d m (runTransfers d (s.wordAt m) (left + 1) runs.length (assertedBefore s d m runs.length)
      ((counts runs).foldl (· + ·) 0) x) := by
  intro left
  induction left with
  | zero =>
    intro runs p x h hleft hall
    have hk : runs.length < s.transferCount m := by omega
    rcases h.messageEnds_or_complete hs hk hall 0 with hends | ⟨hok, hwhole⟩
    · exact hends
    · have hq := h.xferRun hs hk hok
      have hrun := (h.runTransfer_eq hs hk).trans (if_pos hok)
      obtain ⟨hcarried, hcontrol⟩ := afterXfer_spec (d := d) hq.end_eq
        (hq.control.trans (sameTransfer_xfer d _ _).toSameControl) (!(s.transferOf m runs.length).csChange)
      have hends := runTransfers_of_complete (left := 0) (actual := (counts runs).foldl (· + ·) 0) hrun hwhole
      rw [show terminates (s.transferOf m runs.length).csChange (decide (0 = 0)) = !(s.transferOf m runs.length).csChange by
        unfold terminates; cases (s.transferOf m runs.length).csChange <;> rfl] at hends
      refine .inl ⟨_, _, _, _, h.executed.next hq, ended_append hall hk (.inl hleft) (if_pos hwhole).symm rfl ?_, ?_,
        hcontrol, hends⟩
      · cases (s.transferOf m runs.length).csChange <;> rfl
      · cases hc : (s.transferOf m runs.length).csChange <;> rw [hc] at hcarried <;> exact hcarried
  | succ left ih =>
    intro runs p x h hleft hall
    have hk : runs.length < s.transferCount m := by omega
    rcases h.messageEnds_or_complete hs hk hall (left + 1) with hends | ⟨hok, hwhole⟩
    · exact hends
    · have hq := h.xferRun hs hk hok
      have hrun := (h.runTransfer_eq hs hk).trans (if_pos hok)
      obtain ⟨hcarried, hcontrol⟩ := afterXfer_spec (d := d) hq.end_eq
        (hq.control.trans (sameTransfer_xfer d _ _).toSameControl) (s.transferOf m runs.length).csChange
      have hgoes := runTransfers_of_complete (left := left + 1) (actual := (counts runs).foldl (· + ·) 0) hrun hwhole
      rw [show terminates (s.transferOf m runs.length).csChange (decide (left + 1 = 0)) =
        (s.transferOf m runs.length).csChange by
          unfold terminates; cases (s.transferOf m runs.length).csChange <;> rfl] at hgoes
      have hlen : (runs ++ [nextRun s d m runs.length x]).length = runs.length + 1 := List.length_append
      have hnext := ih (runs ++ [nextRun s d m runs.length x]) _ _
        ⟨h.executed.next hq, by rw [hlen]; exact hcarried, hcontrol⟩ (by omega) (hall.append hwhole)
      rw [hlen, foldl_counts_append] at hnext
      exact hgoes ▸ hnext

end Sys2Proof.Machine
end

section
/-! SUPPORT. A Message that ends is served (spec/43_cs_sequencer.md R139 to R145), and the statements about Messages of any
number of Transfers: what they do, and where they stop. -/

namespace Sys2Proof.Machine

variable {s : State} {d : Slot} {m : Word} {runs : List (State × State)} {p x : State}

/-! ### The start of a Message (R44, R139, R142) -/

/-- After the two words PROCESS_MSG reads first. -/
def firstReads (m : Word) (s : State) : State := (memRead4 (m + 4) (memRead4 m s).2).2

theorem processMsg_eq (hruns : messageRuns s d m) (hraced : s.raced = []) (h : Option Slot) :
    processMsg d m h s =
      match runMessage d (s.wordAt m) (s.transferCount m) h (firstReads m s) with
      | .error e => .error e
      | .ok (r, s') => .ok (writeResults m r s') := by
  obtain ⟨hptr, hcnt⟩ := memRead4_first m hraced
  unfold processMsg
  rw [slotReady_ok.2 hruns.1, hruns.2]
  show (match runMessage d (memRead4 m s).1 (memRead4 (m + 4) (memRead4 m s).2).1.toNat h (firstReads m s) with
      | .error e => Except.error e
      | .ok (r, s') => .ok (writeResults m r s')) = _
  rw [hptr, hcnt]
  rfl

theorem carried_firstReads (m : Word) (hraced : s.raced = []) :
    Carried [.memRead m 4 (s.wordAt m), .memRead (m + 4) 4 (s.wordAt (m + 4))] s (firstReads m s) := by
  obtain ⟨-, hcnt⟩ := memRead4_first m hraced
  have hsecond : (memRead4 m s).2.wordAt (m + 4) = s.wordAt (m + 4) := hcnt
  constructor
  case trace =>
    rw [← hsecond]
    exact List.append_assoc _ _ _
  all_goals rfl

/-- The first Transfer is reached after the two reads and the release of another device's select. -/
theorem reaches_first (hs : MessageStarts s d m) :
    Reaches s d m [] s (if s.heldCs = some d then firstReads m s else releaseHeld s.heldCs (firstReads m s)) := by
  have hreads := carried_firstReads m hs.notRaced
  have hcontrol : SameControl s (firstReads m s) := (sameControl_memRead4 m s).trans (sameControl_memRead4 (m + 4) _)
  refine ⟨.start, ?_, ?_⟩
  · show Carried (_ ++ _) _ _
    split
    · exact (List.append_nil _).symm ▸ hreads
    · exact releaseEvents_congr hcontrol s.heldCs ▸ hreads.trans (carried_releaseHeld s.heldCs _)
  · split
    · exact hcontrol
    · exact hcontrol.trans (sameControl_releaseHeld s.heldCs _)

theorem messageEnds_runMessage (hs : MessageStarts s d m) :
    MessageEnds s d m (runMessage d (s.wordAt m) (s.transferCount m) s.heldCs (firstReads m s)) := by
  obtain ⟨left, hleft⟩ : ∃ left, s.transferCount m = left + 1 := Nat.exists_eq_succ_of_ne_zero hs.some
  have hends : MessageEnds s d m (runTransfers d (s.wordAt m) (left + 1) 0 (assertedBefore s d m 0) 0 _) :=
    messageEnds_runTransfers hs left [] s _ (reaches_first hs) (by rw [hleft]; exact Nat.zero_add _)
      fun k hk => absurd hk (Nat.not_lt_zero k)
  unfold runMessage
  rw [if_neg hs.some, hs.array, hleft]
  by_cases hheld : s.heldCs = some d
  · rw [if_pos hheld] at hends ⊢
    have hasserted : assertedBefore s d m 0 = true := decide_eq_true hheld
    rw [hasserted] at hends
    exact hends
  · rw [if_neg hheld] at hends ⊢
    have hasserted : assertedBefore s d m 0 = false := decide_eq_false hheld
    rw [hasserted] at hends
    exact hends

/-! ### Views of a whole Message -/

theorem wordReads_eventsBefore (s : State) (d : Slot) (m : Word) (k : Nat) :
    (eventsBefore s d m k).filterMap wordReadOf = (if k = 0 then [m, m + 4] else []) ++
      [s.transferAddr m k, s.transferAddr m k + 4, s.transferAddr m k + 8, s.transferAddr m k + 12,
        s.transferAddr m k + 16] := by
  have hreach : (reachEvents s d m k (assertedBefore s d m k)).filterMap wordReadOf =
      [s.transferAddr m k, s.transferAddr m k + 4, s.transferAddr m k + 8, s.transferAddr m k + 12,
        s.transferAddr m k + 16] := by
    unfold reachEvents
    rw [List.filterMap_append]
    cases assertedBefore s d m k
    · exact congrArg (_ ++ ·) (wordReads_assertEvents s d)
    · rfl
  rw [eventsBefore_eq, List.filterMap_append, hreach]
  congr 1
  cases k with
  | zero =>
    show List.filterMap wordReadOf (_ ++ _) = _
    rw [List.filterMap_append]
    by_cases hheld : s.heldCs = some d
    · rw [if_pos hheld]; rfl
    · rw [if_neg hheld, wordReads_releaseEvents]; rfl
  | succ k =>
    show List.filterMap wordReadOf (if _ then _ else _) = _
    cases (s.transferOf m k).csChange
    · rfl
    · exact wordReads_deassertEvents s d

/-- The levels the select is put at before the `k`-th XFER. -/
def edgesBefore (s : State) (d : Slot) (m : Word) : Nat → List Bool
  | 0 => if s.heldCs = some d then [] else [(s.dev d).csHigh]
  | k + 1 => if (s.transferOf m k).csChange then [!(s.dev d).csHigh, (s.dev d).csHigh] else []

theorem levels_eventsBefore (hs : MessageStarts s d m) (k : Nat) :
    (eventsBefore s d m k).filterMap (levelOf (s.cfg.slot d).cs) = edgesBefore s d m k := by
  have hreach : ∀ asserted, (reachEvents s d m k asserted).filterMap (levelOf (s.cfg.slot d).cs) =
      if asserted then [] else [(s.dev d).csHigh] := fun asserted => by
    unfold reachEvents
    rw [List.filterMap_append]
    cases asserted
    · exact congrArg (_ ++ ·) (levels_assertEvents hs.platform hs.hasSlot)
    · rfl
  rw [eventsBefore_eq, List.filterMap_append, hreach]
  cases k with
  | zero =>
    show List.filterMap _ (_ ++ _) ++ (if decide (s.heldCs = some d) then [] else _) = if _ then _ else _
    rw [List.filterMap_append]
    by_cases hheld : s.heldCs = some d
    · rw [if_pos hheld, if_pos hheld, if_pos (decide_eq_true hheld)]; rfl
    · rw [if_neg hheld, if_neg hheld, levels_releaseEvents hs.platform hs.hasSlot hheld,
        if_neg (by simpa using hheld)]
      rfl
  | succ k =>
    show List.filterMap _ (if (s.transferOf m k).csChange then _ else _) ++
      (if !(s.transferOf m k).csChange then [] else _) = if (s.transferOf m k).csChange then _ else _
    cases (s.transferOf m k).csChange
    · rfl
    · exact congrArg (· ++ _) ((levels_deassertEvents hs.platform hs.hasSlot d).trans (if_pos rfl))

/-- The edges before each XFER and at the end, told Transfer by Transfer (R140, R141). -/
theorem edges_regroup {r : SeqResult} (hended : Ended s d m runs r) :
    (List.range runs.length).flatMap (edgesBefore s d m) ++ (if r.held = none then [!(s.dev d).csHigh] else []) =
      (if s.heldCs = some d then [] else [(s.dev d).csHigh]) ++
        (List.range runs.length).flatMap (fun k =>
          edgesAfter (s.dev d).csHigh (decide ((counts runs).getD k 0 = (s.transferOf m k).len))
            (s.transferOf m k).csChange (decide (k + 1 = s.transferCount m))) := by
  obtain ⟨⟨hne, hle⟩, hbefore, hremaining, hstatus, -, hheld⟩ := hended
  obtain ⟨n, hn⟩ : ∃ n, runs.length = n + 1 := Nat.exists_eq_succ_of_ne_zero (Nat.ne_of_gt hne)
  rw [hn, Nat.add_sub_cancel] at hremaining hstatus hheld
  rw [hn] at hbefore hle ⊢
  have hmiddle : (List.range n).flatMap (fun k => edgesBefore s d m (k + 1)) = (List.range n).flatMap (fun k =>
      edgesAfter (s.dev d).csHigh (decide ((counts runs).getD k 0 = (s.transferOf m k).len))
        (s.transferOf m k).csChange (decide (k + 1 = s.transferCount m))) := by
    refine List.flatMap_congr fun k hk => ?_
    have hkn := List.mem_range.1 hk
    have hcomplete := decide_eq_true (hbefore k (by omega))
    have hinner : decide (k + 1 = s.transferCount m) = false := decide_eq_false (by omega)
    rw [hcomplete, hinner]
    rfl
  have hlast : (if r.held = none then [!(s.dev d).csHigh] else []) =
      edgesAfter (s.dev d).csHigh (decide ((counts runs).getD n 0 = (s.transferOf m n).len))
        (s.transferOf m n).csChange (decide (n + 1 = s.transferCount m)) := by
    rw [hheld, hstatus]
    by_cases hwhole : (counts runs).getD n 0 = (s.transferOf m n).len
    · rw [if_pos hwhole, decide_eq_true hwhole, decide_eq_true (hremaining.resolve_right fun hne => hne hwhole)]
      cases (s.transferOf m n).csChange <;> rfl
    · rw [if_neg hwhole, decide_eq_false hwhole]
      rfl
  have hfirst : (List.range (n + 1)).flatMap (edgesBefore s d m) = (if s.heldCs = some d then [] else [(s.dev d).csHigh]) ++
      (List.range n).flatMap (fun k => edgesBefore s d m (k + 1)) := by
    rw [List.range_succ_eq_map, List.flatMap_cons, List.flatMap_map]
    rfl
  rw [hfirst, hmiddle, hlast, List.append_assoc, List.range_succ, List.flatMap_append, List.flatMap_singleton]

/-! ### A Message served (R44, R139 to R145) -/

/-- What lies between the XFERs of a Message, and the data they move. -/
theorem transfers_of_executed (hs : MessageStarts s d m) (h : Executed s d m runs p) {r : SeqResult}
    (hx : Carried (if r.held = none then deassertEvents s d else []) p x) (hcontrol : SameControl s x) :
    Transfers s (writeResults m r x) d m (counts runs) runs := by
  obtain ⟨-, -, hother⟩ := read_writeResults r x (hcontrol.cfg.symm ▸ hs.operands.2)
  constructor
  case length => exact (length_counts runs).symm
  case xfer =>
    intro k q q' hk
    have hrun := h.run hk
    exact ⟨hrun.exec, (getD_counts hk).symm, hrun.descriptor, hrun.control.cfg⟩
  case first =>
    intro q q' hk
    have hrun := h.run hk
    exact ⟨hrun.trace, hrun.mem, hrun.script, hrun.latch, hrun.speed⟩
  case next =>
    intro k q y q' y' hk hk'
    have hrun := h.run hk'
    rw [cameFrom_succ hk] at hrun
    exact ⟨hrun.trace, hrun.mem, hrun.script, hrun.latch, hrun.speed⟩
  case last =>
    intro q y hlast
    obtain rfl : y = p := h.getLast hlast
    refine ⟨?_, hx.script, hx.latch, hx.speed, fun a ha => (hother a ha).trans (congrArg (·.read a) hx.mem)⟩
    exact (trace_writeResults m r x).trans (congrArg (· ++ _) hx.trace)
  case stored =>
    intro hf hscript k q y hk hv hrx j hj hres hlater
    rw [length_counts] at hscript hlater
    rw [hother _ hres, hx.mem]
    exact h.stored hf hscript hk hv hrx hj hlater
  case sent =>
    intro hf k q y hk hapart
    rw [getD_counts hk]
    exact (h.run hk).sends hf hs.platform hs.notRaced hapart

/-- The lines a view shows of a whole Message. -/
theorem view_of_executed {α : Type} {f : Event → Option α} (hf : ∀ (x : Transfer) e, XferEvent s.cfg x e → f e = none)
    (hwrite : ∀ a v, f (.memWrite a 4 v) = none) (h : Executed s d m runs p) {l : List Event} (hx : Carried l p x)
    (r : SeqResult) : (eventsSince s (writeResults m r x)).filterMap f =
      (List.range runs.length).flatMap (fun k => (eventsBefore s d m k).filterMap f) ++ l.filterMap f := by
  obtain ⟨hto, hview⟩ := h.view hf
  have hend : (writeResults m r x).trace =
      p.trace ++ (l ++ [.memWrite (m + 0x10) 4 r.status, .memWrite (m + 0x14) 4 r.actual]) := by
    rw [trace_writeResults, hx.trace, List.append_assoc]
  rw [eventsSince_trans hto ⟨_, hend.symm⟩, List.filterMap_append, hview, eventsSince_of_append hend,
    List.filterMap_append, List.filterMap_cons, hwrite, List.filterMap_cons, hwrite]
  exact congrArg (_ ++ ·) (List.append_nil _)

theorem levels_of_executed (hs : MessageStarts s d m) (h : Executed s d m runs p) {r : SeqResult} (hended : Ended s d m runs r)
    (hx : Carried (if r.held = none then deassertEvents s d else []) p x) :
    levelsSince (s.cfg.slot d).cs s (writeResults m r x) =
      (if s.heldCs = some d then [] else [(s.dev d).csHigh]) ++
        (List.range runs.length).flatMap (fun k =>
          edgesAfter (s.dev d).csHigh (decide ((counts runs).getD k 0 = (s.transferOf m k).len))
            (s.transferOf m k).csChange (decide (k + 1 = s.transferCount m))) := by
  obtain ⟨hcs, hsck, hmosi, -⟩ := Config.wf_cs hs.platform hs.hasSlot
  rw [levelsSince_eq, view_of_executed (fun _ _ he => he.levelOf_eq_none hcs hsck.symm hmosi.symm) (fun _ _ => rfl) h hx r,
    List.flatMap_congr fun k _ => levels_eventsBefore hs k, ← edges_regroup hended]
  congr 1
  split
  · exact (levels_deassertEvents hs.platform hs.hasSlot d).trans (if_pos rfl)
  · rfl

theorem reads_of_executed (h : Executed s d m runs p) (hne : 0 < runs.length) {r : SeqResult}
    (hx : Carried (if r.held = none then deassertEvents s d else []) p x) :
    wordReadsSince s (writeResults m r x) = [m, m + 4] ++ (List.range runs.length).flatMap (fun k =>
      [s.transferAddr m k, s.transferAddr m k + 4, s.transferAddr m k + 8, s.transferAddr m k + 12,
        s.transferAddr m k + 16]) := by
  obtain ⟨n, hn⟩ : ∃ n, runs.length = n + 1 := Nat.exists_eq_succ_of_ne_zero (Nat.ne_of_gt hne)
  have htail : (if r.held = none then deassertEvents s d else []).filterMap wordReadOf = [] := by
    split
    · exact wordReads_deassertEvents s d
    · rfl
  rw [wordReadsSince_eq, view_of_executed (fun _ _ he => he.wordReadOf_eq_none) (fun _ _ => rfl) h hx r, htail,
    List.append_nil, List.flatMap_congr fun k _ => wordReads_eventsBefore s d m k, hn, List.range_succ_eq_map,
    List.flatMap_cons, List.flatMap_cons, List.flatMap_map, List.flatMap_map, ← List.append_assoc]
  rfl

theorem served_of_ended (hs : MessageStarts s d m) (h : Executed s d m runs p) {r : SeqResult} (hended : Ended s d m runs r)
    (hx : Carried (if r.held = none then deassertEvents s d else []) p x) (hcontrol : SameControl s x) :
    Served s (writeResults m r x) d m (counts runs) := by
  obtain ⟨-, -, hother⟩ := read_writeResults r x (hcontrol.cfg.symm ▸ hs.operands.2)
  have hget : ∀ {k}, k < runs.length → ∃ q, runs[k]? = some q := fun hk => ⟨_, List.getElem?_eq_getElem hk⟩
  constructor
  case executed => exact length_counts runs ▸ hended.executed
  case within =>
    intro k hk
    obtain ⟨q, hq⟩ := hget (length_counts runs ▸ hk)
    rw [getD_counts hq]
    exact (h.run hq).count_le
  case whole =>
    intro hf k hk hv
    obtain ⟨q, hq⟩ := hget (length_counts runs ▸ hk)
    rw [getD_counts hq]
    exact ((h.run hq).clocked hf).2 hv
  case before => exact fun k hk => hended.before k (length_counts runs ▸ hk)
  case remaining => rw [length_counts]; exact hended.remaining
  case status => rw [length_counts]; exact hended.status
  case actual => exact hended.actual
  case held => rw [length_counts]; exact hended.held
  case edges => rw [length_counts]; exact levels_of_executed hs h hended hx
  case reads => rw [length_counts]; exact reads_of_executed h hended.executed.1 hx
  case transfers => exact ⟨runs, transfers_of_executed hs h hx hcontrol⟩
  case speed =>
    rw [length_counts]
    exact (congrArg Speed.curHz hx.speed).trans (h.speed hended.executed.1)
  case memory =>
    intro a hres hout
    rw [length_counts] at hout
    exact (hother a hres).trans ((congrArg (·.read a) hx.mem).trans (h.read_eq hout))

/-- Every Message that starts is served, or refused at its first illegal descriptor with all Transfers before it
complete. -/
theorem exec_processMsg (hs : MessageStarts s d m) :
    (∃ t runs p, exec (.processMsg d m) s = .next t ∧ Executed s d m runs p ∧ Served s t d m (counts runs)) ∨
    (∃ runs p, exec (.processMsg d m) s = .refused .malformedDescriptor ∧ Executed s d m runs p ∧
      AllComplete s m runs ∧ runs.length < s.transferCount m ∧ ¬ descriptorOk s m runs.length) := by
  have hexec : exec (.processMsg d m) s = outcome (processMsg d m s.heldCs s) := rfl
  rw [hexec, processMsg_eq hs.operands hs.notRaced]
  rcases messageEnds_runMessage hs with
    ⟨runs, p, r, x, hrun, hended, hx, hcontrol, heq⟩ | ⟨runs, p, hrun, hall, hlt, hbad, heq⟩
  · rw [heq]
    exact .inl ⟨_, runs, p, rfl, hrun, served_of_ended hs hrun hended hx hcontrol⟩
  · rw [heq]
    exact .inr ⟨runs, p, rfl, hrun, hall, hlt, hbad⟩

end Sys2Proof.Machine
end

section
/-! SUPPORT. The statements about Messages with Transfers, and where submissions stop (spec/43_cs_sequencer.md R139 to R145,
spec/44_queue_dispatcher.md R157, R164, R166). -/

namespace Sys2Proof.Machine

variable {s : State} {d : Slot} {m : Word} {runs : List (State × State)} {p : State}

/-! ### Messages with Transfers (R141, R145) -/

/-- The first Transfer of the array is at its start. -/
theorem transferOf_zero (s : State) (m : Word) : s.transferOf m 0 = transferAt (s.wordAt m) s :=
  congrArg (transferAt · s) (BitVec.add_zero _)

/-- What a Message of one Transfer does (R145). -/
theorem Served.single {t : State} {gots : List Word} (h : Served s t d m gots) (hone : s.transferCount m = 1) :
    t.seq.actual.toNat ≤ (s.transferOf m 0).len.toNat ∧
      (t.seq.status = 0 ↔ t.seq.actual = (s.transferOf m 0).len) ∧
      levelsSince (s.cfg.slot d).cs s t =
        (if s.heldCs = some d then [] else [(s.dev d).csHigh]) ++
        (if t.seq.status = 0 ∧ (s.transferOf m 0).csChange = true then [] else [!(s.dev d).csHigh]) ∧
      t.seq.held = (if t.seq.status = 0 ∧ (s.transferOf m 0).csChange = true then some d else none) ∧
      t.speed.curHz = some (effHz d (s.transferOf m 0) s) := by
  obtain ⟨got, rfl⟩ : ∃ got, gots = [got] := by
    obtain ⟨hpos, hle⟩ := h.executed
    exact List.length_eq_one_iff.1 (by omega)
  have hactual : t.seq.actual = got := h.actual.trans (BitVec.zero_add got)
  have hstatus : t.seq.status = if got = (s.transferOf m 0).len then 0 else 1 := h.status
  have hzero : t.seq.status = 0 ↔ got = (s.transferOf m 0).len := by
    rw [hstatus]
    by_cases hgot : got = (s.transferOf m 0).len <;> simp [hgot]
  have hedges := h.edges
  have hlast : edgesAfter (s.dev d).csHigh (decide (got = (s.transferOf m 0).len)) (s.transferOf m 0).csChange
      (decide (0 + 1 = s.transferCount m)) =
        if t.seq.status = 0 ∧ (s.transferOf m 0).csChange = true then [] else [!(s.dev d).csHigh] := by
    unfold edgesAfter
    rw [hone, hstatus]
    by_cases hgot : got = (s.transferOf m 0).len <;> cases (s.transferOf m 0).csChange <;> simp [hgot]
  rw [hactual]
  exact ⟨h.within 0 Nat.one_pos, hzero, hedges.trans (congrArg (_ ++ ·) ((List.append_nil _).trans hlast)), h.held, h.speed⟩

/-- A first Transfer in verify mode whose first byte differs moves nothing (R111). -/
theorem Executed.first_mismatch (h : Executed s d m runs p) (hraced : s.raced = []) (hv : (s.transferOf m 0).verify = true)
    (hlen : (s.transferOf m 0).len ≠ 0) (hscript : 8 ≤ s.lineScript.length)
    (hne : s.slaveByte 0 ≠ s.memByte (s.transferOf m 0).rxPtr) (hpos : 0 < runs.length) :
    (counts runs).getD 0 0 = 0 := by
  have hq := List.getElem?_eq_getElem hpos
  have hrun := h.run hq
  have hslave : runs[0].1.slaveByte 0 = s.slaveByte 0 := by
    unfold State.slaveByte
    rw [hrun.control.cfg]
    exact congrArg (fun l => byteOf s.cfg.miso ((List.drop (8 * 0) l).map (· &&& s.cfg.lineMask))) hrun.script
  have hbyte : runs[0].1.memByte (s.transferOf m 0).rxPtr = s.memByte (s.transferOf m 0).rxPtr :=
    memByte_congr (by rw [hrun.mem]; rfl)
  rw [getD_counts hq, hrun.end_eq]
  exact xfer_first_mismatch hrun.legal.2 hv hlen (hrun.control.raced.trans hraced) (hrun.script.symm ▸ hscript)
    (by rw [hslave, hbyte]; exact hne)

/-- A well-formed Message with Transfers completes. -/
theorem exec_processMsg_of_serves (h : messageServes s d m) :
    ∃ t gots, exec (.processMsg d m) s = .next t ∧ Served s t d m gots := by
  obtain ⟨hs, hok⟩ := h
  rcases exec_processMsg hs with ⟨t, runs, p, hexec, -, hserved⟩ | ⟨runs, p, -, -, -, hlt, hbad⟩
  · exact ⟨t, counts runs, hexec, hserved⟩
  · exact absurd (hok _ hlt) hbad

/-- Settles O31: a Message that starts is served, or refused at an illegal descriptor it reaches after complete
Transfers. -/
theorem singleTransferSelectEdges : Obligations.SingleTransferSelectEdges := by
  refine ⟨fun s d m h => exec_processMsg_of_serves h, fun s d m h hone => ?single,
    fun s d m hs hok hv hlen hscript hne => ?mismatch⟩
  case single =>
    obtain ⟨t, gots, hexec, hserved⟩ := exec_processMsg_of_serves h
    exact ⟨t, hexec, transferOf_zero s m ▸ hserved.single hone⟩
  case mismatch =>
    have hnot_all : ∀ {runs p}, Executed s d m runs p → 0 < runs.length →
        (counts runs).getD 0 0 ≠ (s.transferOf m 0).len :=
      fun hrun hpos heq => hlen (heq.symm.trans (hrun.first_mismatch hs.notRaced hv hlen hscript hne hpos))
    rcases exec_processMsg hs with ⟨t, runs, p, hexec, hrun, hserved⟩ | ⟨runs, p, -, hrun, hall, -, hbad⟩
    · have hpos : 0 < runs.length := length_counts runs ▸ hserved.executed.1
      have hshort := hnot_all hrun hpos
      have hlast : ¬ 1 < (counts runs).length := fun hlt => hshort (hserved.before 0 hlt)
      have hone : (counts runs).length = 1 := by rw [length_counts] at hlast ⊢; omega
      obtain ⟨got, hgot⟩ := List.length_eq_one_iff.1 hone
      have hzero := hrun.first_mismatch hs.notRaced hv hlen hscript hne hpos
      rw [hgot] at hzero hserved
      obtain rfl : got = 0 := hzero
      exact ⟨t, hexec, hserved⟩
    · rcases Nat.eq_zero_or_pos runs.length with h0 | hpos
      · exact absurd hok (h0 ▸ hbad)
      · exact absurd (hall 0 hpos) (hnot_all hrun hpos)

/-! ### Where operations stop (R43, R48, R157, R164, R166) -/

theorem submitOperands_of_bad {d : Slot} {m : Word} {s : State} (hready : s.ready d = true)
    (haddr : descriptorAddress m = false) : submitOperands d m s = .error .badDescriptorAddress := by
  unfold submitOperands
  rw [slotReady_ok.2 hready, haddr]
  rfl

theorem messageOk_of_bad {c : Config} {m : Word} (h : descriptorAddress m = false) :
    messageOk c m = .error .badDescriptorAddress := by
  unfold messageOk
  rw [h]; rfl

theorem messageOk_of_outside {c : Config} {m : Word} (haddr : descriptorAddress m = true) (h : rangeOk c m 24 = false) :
    messageOk c m = .error .malformedDescriptor := by
  unfold messageOk
  rw [haddr, h]; rfl

/-- PROCESS_MSG of a registered slot is refused as its Message is. -/
theorem processMsg_of_refused {h : Option Slot} {e : Refusal} (hready : s.ready d = true) (hm : messageOk s.cfg m = .error e) :
    processMsg d m h s = .error e := by
  unfold processMsg
  rw [slotReady_ok.2 hready, hm]

/-- COMPLETE of an existing slot is refused as its Message is. -/
theorem execComplete_of_refused {e : Refusal} (hslot : s.cfg.hasSlot d = true) (hm : messageOk s.cfg m = .error e) :
    execComplete d m s = .refused e := by
  rw [execComplete_eq hslot]
  unfold completeMsg
  rw [hm]
  rfl

/-- On a constructed controller SUBMIT_ATOMIC is refused as its admission is. -/
theorem execSubmitAtomic_of_refused {e : Refusal} (hmis : s.misconfigured = false) (h : admission d m s = .error e) :
    execSubmitAtomic d m s = .refused e := by
  unfold execSubmitAtomic runAtomic
  rw [hmis, h]
  rfl

/-- A Message's descriptors before an illegal one are reached in order, so it is refused there unless an earlier Transfer
is short. -/
theorem exec_processMsg_of_illegal (hs : MessageStarts s d m) (hf : s.cfg.hwFaults = []) {k : Nat}
    (hk : k < s.transferCount m) (hv : ∀ j < k, (s.transferOf m j).verify = false) (hbad : ¬ descriptorOk s m k) :
    exec (.processMsg d m) s = .refused .malformedDescriptor := by
  rcases exec_processMsg hs with ⟨t, runs, p, -, hrun, hserved⟩ | ⟨runs, p, hexec, -⟩
  · have hlen := length_counts runs
    have hle : runs.length ≤ k := by
      by_contra hlt
      exact hbad (hrun.run (List.getElem?_eq_getElem (Nat.lt_of_not_le hlt))).legal
    have hpos := hserved.executed.1
    refine absurd (hserved.whole hf ((counts runs).length - 1) (by omega) (hv _ (by omega))) ?_
    exact hserved.remaining.resolve_left (by omega)
  · exact hexec

/-- Settles O38: each operation asks its operands in the order of its definition; a Message stops at the first illegal
descriptor it reaches. -/
theorem submissionStops : Obligations.SubmissionStops := by
  refine ⟨fun s d m hmis hready => ?submit, fun s d a hslot haddr => ?address, fun s d a hslot haddr => ?descriptor,
    fun s d m hruns hraced hcnt harray => ?array, fun s d m hs => ?reached,
    fun s d m k hs hf hk hv hbad => exec_processMsg_of_illegal hs hf hk hv hbad⟩
  case submit =>
    refine ⟨fun haddr => ?_, fun haddr => ⟨fun n hdepth hfull => ?_, fun hbusy => ?_⟩⟩
    · have hoperands := submitOperands_of_bad hready haddr
      refine ⟨?_, execSubmitAtomic_of_refused hmis (by unfold admission; rw [hoperands])⟩
      show execSubmit d m s = _
      unfold execSubmit
      rw [hmis, hoperands]
      rfl
    · refine (execSubmit_eq hmis hready haddr).trans (if_neg fun hroom => ?_)
      exact absurd ((hasRoom_iff _ _).1 hroom n hdepth) (Nat.not_lt.2 hfull)
    · refine execSubmitAtomic_of_refused hmis ?_
      unfold admission
      rw [submitOperands_ok.2 ⟨hready, haddr⟩, hbusy]
      rfl
  case address =>
    refine ⟨?_, execComplete_of_refused hslot (messageOk_of_bad haddr), fun hvalid => ?_⟩
    · show execXfer d a s = _
      unfold execXfer
      rw [hslot, haddr]
      rfl
    · exact congrArg outcome (processMsg_of_refused (Bool.and_eq_true_iff.2 ⟨hslot, hvalid⟩) (messageOk_of_bad haddr))
  case descriptor =>
    refine ⟨fun hillegal => ?_, fun houtside => ⟨?_, fun hvalid => ?_⟩, fun hinside n hdepth hfull => ?_⟩
    · show execXfer d a s = _
      have hboth : (rangeOk s.cfg a 20 && (transferAt a s).ok s.cfg) = false := by
        rcases hillegal with h | h <;> rw [h]
        · exact Bool.false_and _
        · exact Bool.and_false _
      unfold execXfer
      rw [hslot, haddr, hboth]
      rfl
    · exact execComplete_of_refused hslot (messageOk_of_outside haddr houtside)
    · exact congrArg outcome
        (processMsg_of_refused (Bool.and_eq_true_iff.2 ⟨hslot, hvalid⟩) (messageOk_of_outside haddr houtside))
    · refine (execComplete_eq hslot).trans ?_
      unfold completeMsg
      rw [messageOk_iff.2 ⟨haddr, hinside⟩]
      exact congrArg outcome
        (if_neg fun hroom => absurd ((hasRoom_iff _ _).1 hroom n hdepth) (Nat.not_lt.2 hfull))
  case array =>
    show outcome (processMsg d m s.heldCs s) = _
    rw [processMsg_eq hruns hraced]
    unfold runMessage
    rw [if_neg hcnt, harray]
    rfl
  case reached =>
    rcases exec_processMsg hs with ⟨t, runs, p, hexec, hrun, hserved⟩ | ⟨runs, p, hexec, hrun, -, hlt, hbad⟩
    · exact .inl ⟨t, counts runs, hexec, hserved, fun k hk =>
        (hrun.run (List.getElem?_eq_getElem (length_counts runs ▸ hk))).legal⟩
    · exact .inr ⟨runs.length, hlt, hbad, fun j hj => (hrun.run (List.getElem?_eq_getElem hj)).legal, hexec⟩

end Sys2Proof.Machine
end

section
/-! SUPPORT. Processing a Message does not read the held select of the controller (spec/43_cs_sequencer.md R139: `h` is its
operand), so what it does is the same whatever `held_cs` shows. -/

namespace Sys2Proof.Machine

/-- The state with another held select. -/
def withHeld (h : Option Slot) (s : State) : State := { s with heldCs := h }

theorem withHeld_cfg (h : Option Slot) (s : State) : (withHeld h s).cfg = s.cfg := rfl

theorem withHeld_latch (h : Option Slot) (s : State) : (withHeld h s).latch = s.latch := rfl

theorem setBi_withHeld (n : Nat) (h : Option Slot) (s : State) : setBi n (withHeld h s) = withHeld h (setBi n s) := rfl

/-- An operation on the state that neither reads nor writes the held select. -/
def HeldBlind (f : State → State) : Prop := ∀ h s, f (withHeld h s) = withHeld h (f s)

/-- An operation with a result that neither reads nor writes the held select. -/
def HeldBlindRead {α : Type} (f : State → α × State) : Prop := ∀ h s, f (withHeld h s) = ((f s).1, withHeld h (f s).2)

/-! ### Lines and memory -/

theorem heldBlind_lineSet (high low : Word) : HeldBlind (lineSet high low) := fun h s => by
  rw [lineSet_eq, lineSet_eq]; rfl

theorem heldBlind_lineTo (n : Nat) (v : Bool) : HeldBlind (lineTo n v) := heldBlind_lineSet _ _

theorem heldBlind_sckTo (v : Bool) : HeldBlind (sckTo v) := fun h s => heldBlind_lineTo s.cfg.sck v h s

theorem heldBlind_mosiTo (v : Bool) : HeldBlind (mosiTo v) := fun h s => heldBlind_lineTo s.cfg.mosi v h s

theorem heldBlind_waitNs (ns : Word) : HeldBlind (waitNs ns) := fun h s => by
  unfold waitNs; split <;> rfl

theorem heldBlind_halfBit : HeldBlind halfBit := fun h s => heldBlind_waitNs s.speed.softDelayNs h s

theorem heldBlind_sampleMiso : HeldBlind sampleMiso := fun _ _ => rfl

theorem heldBlind_sampleIf (w : Bool) : HeldBlind (sampleIf w) := fun h s => by
  cases w
  · rfl
  · exact heldBlind_sampleMiso h s

theorem heldBlind_memRead1 (a : Word) : HeldBlindRead (memRead1 a) := fun _ _ => rfl

theorem heldBlind_memRead4 (a : Word) : HeldBlindRead (memRead4 a) := fun _ _ => rfl

/-! ### Units and Transfers -/

theorem heldBlind_bitPhase0 (wantRx cpol b : Bool) : HeldBlind (bitPhase0 wantRx cpol b) := fun h s => by
  unfold bitPhase0
  rw [heldBlind_mosiTo, heldBlind_halfBit, heldBlind_sckTo, heldBlind_halfBit, heldBlind_sampleIf, heldBlind_sckTo]
  rfl

theorem heldBlind_bitPhase1 (wantRx cpol b : Bool) : HeldBlind (bitPhase1 wantRx cpol b) := fun h s => by
  unfold bitPhase1
  rw [heldBlind_sckTo, heldBlind_mosiTo, heldBlind_halfBit, heldBlind_sckTo, heldBlind_halfBit, heldBlind_sampleIf]
  rfl

theorem heldBlind_bitHw (cpol b : Bool) : HeldBlind (bitHw cpol b) := fun h s => by
  unfold bitHw
  rw [heldBlind_mosiTo, heldBlind_sckTo, heldBlind_sampleMiso, heldBlind_sckTo]
  rfl

theorem heldBlind_shiftBits {one : Bool → State → State} (hone : ∀ b, HeldBlind (one b)) :
    ∀ k, HeldBlind (shiftBits one k)
  | 0 => fun _ _ => rfl
  | k + 1 => fun h s => by
    show shiftBits one k (one (s.srTx.getLsbD k) (withHeld h s)) = _
    rw [hone, heldBlind_shiftBits hone k]
    rfl

theorem heldBlind_shiftByte (cpha cpol wantRx : Bool) (tx : Byte) : HeldBlindRead (shiftByte cpha cpol wantRx tx) := by
  intro h s
  have hone : ∀ b, HeldBlind ((if cpha then bitPhase1 wantRx cpol else bitPhase0 wantRx cpol) b) := fun b => by
    cases cpha
    · exact heldBlind_bitPhase0 wantRx cpol b
    · exact heldBlind_bitPhase1 wantRx cpol b
  have hbits := heldBlind_shiftBits hone 8 h (loadUnit ((s.srTx &&& 0xFFFFFF00) ||| tx.setWidth 32) 8 s)
  exact congrArg (fun done => (if wantRx then (endUnit done).srRx.setWidth 8 else 0, endUnit done)) hbits

theorem heldBlind_shiftWord (cs : Slot) (cpol : Bool) (count : BitVec 6) (tx : Word) :
    HeldBlindRead (shiftWord cs cpol count tx) := by
  intro h s
  have hbits := heldBlind_shiftBits (heldBlind_bitHw cpol) count.toNat h
    (loadUnit tx count { s with hwCtrl := (encode (.shiftWord cs cpol count tx)).header })
  exact congrArg (fun done => ((endUnit done).srRx, endUnit done)) hbits

theorem heldBlind_txByte (t : Transfer) (n : Nat) : HeldBlindRead (txByte t n) := fun h s => by
  unfold txByte; split <;> rfl

theorem heldBlind_txWord (t : Transfer) (n : Nat) : HeldBlindRead (txWord t n) := fun h s => by
  unfold txWord
  split
  · rfl
  · simp only [heldBlind_memRead1 _ h]

theorem heldBlind_rxWord (t : Transfer) (n : Nat) (r : Word) : HeldBlind (rxWord t n r) := fun h s => by
  unfold rxWord; split <;> rfl

/-- The progress of a loop with another held select. -/
def Progress.withHeld (h : Option Slot) (p : Progress) : Progress := { p with state := Machine.withHeld h p.state }

theorem heldBlind_fastLoop (d : Slot) (t : Transfer) (h : Option Slot) :
    ∀ (k n : Nat) (s : State), fastLoop d t k n (withHeld h s) = (fastLoop d t k n s).withHeld h
  | 0, _, _ => rfl
  | k + 1, n, s => by
    simp only [fastLoop, setBi_withHeld, withHeld_cfg, withHeld_latch, heldBlind_txWord t n h,
      heldBlind_shiftWord _ _ _ _ h, heldBlind_rxWord t n _ h]
    split
    · rfl
    · exact heldBlind_fastLoop d t h k (n + 4) _

theorem heldBlind_byteLoop (t : Transfer) (h : Option Slot) :
    ∀ (k n : Nat) (s : State), byteLoop t k n (withHeld h s) = (byteLoop t k n s).withHeld h
  | 0, _, _ => rfl
  | k + 1, n, s => by
    have hwrite : ∀ a b u, memWrite1 a b (withHeld h u) = withHeld h (memWrite1 a b u) := fun _ _ _ => rfl
    simp only [byteLoop, setBi_withHeld, withHeld_latch, heldBlind_txByte t n h,
      heldBlind_shiftByte _ _ _ _ h, heldBlind_memRead1 _ h, hwrite]
    split
    · split
      · exact heldBlind_byteLoop t h k (n + 1) _
      · rfl
    · split
      · exact heldBlind_byteLoop t h k (n + 1) _
      · exact heldBlind_byteLoop t h k (n + 1) _

theorem heldBlind_xfer (d : Slot) (t : Transfer) : HeldBlindRead (xfer d t) := by
  intro h s
  have hfast : fastPart d t (withHeld h s) = (fastPart d t s).withHeld h := by
    show (if fastOk d t s then _ else _) = Progress.withHeld h (if fastOk d t s then _ else _)
    split
    · exact heldBlind_fastLoop d t h _ _ s
    · rfl
  have hbyte : ∀ p : Progress, bytePart t (p.withHeld h) = (bytePart t p).withHeld h := fun p => by
    show (if p.ended then _ else _) = Progress.withHeld h (if p.ended then _ else _)
    split
    · rfl
    · exact heldBlind_byteLoop t h _ _ p.state
  unfold xfer
  rw [hfast, hbyte]
  rfl

/-! ### Messages -/

theorem heldBlind_csAssert (d : Slot) : HeldBlind (csAssert d) := fun h s => by
  rw [csAssert_eq, csAssert_eq]; rfl

theorem heldBlind_csDeassert (d : Slot) : HeldBlind (csDeassert d) := fun h s => by
  rw [csDeassert_eq, csDeassert_eq]; rfl

theorem heldBlind_releaseHeld (held : Option Slot) : HeldBlind (releaseHeld held) := fun h s => by
  cases held
  · rfl
  · exact heldBlind_csDeassert _ h s

theorem heldBlind_readTransfer (a : Word) : HeldBlindRead (readTransfer a) := fun h s => by
  unfold readTransfer
  simp only [heldBlind_memRead4 _ h]

theorem heldBlind_applySpeed (hz : Word) (h : Option Slot) (s : State) :
    applySpeed hz (withHeld h s) = (applySpeed hz s).map (withHeld h) := by
  show (if s.speed.curHz = some hz then _ else if hz = 0 then _ else _) =
    Except.map _ (if s.speed.curHz = some hz then _ else if hz = 0 then _ else _)
  split
  · rfl
  · split <;> rfl

theorem heldBlind_xferChecked (d : Slot) (t : Transfer) (h : Option Slot) (s : State) :
    xferChecked d t (withHeld h s) = (xferChecked d t s).map fun r => (r.1, withHeld h r.2) := by
  unfold xferChecked
  rw [heldBlind_xfer]
  show (match phaseOk s.latch.cpha s with | .ok () => _ | .error r => _) = _
  cases phaseOk s.latch.cpha s <;> rfl

theorem heldBlind_runTransfer (d : Slot) (a : Word) (asserted : Bool) (h : Option Slot) (s : State) :
    runTransfer d a asserted (withHeld h s) =
      (runTransfer d a asserted s).map fun r => (r.1, r.2.1, withHeld h r.2.2) := by
  have hselected : (if asserted then withHeld h (readTransfer a s).2 else csAssert d (withHeld h (readTransfer a s).2)) =
      withHeld h (if asserted then (readTransfer a s).2 else csAssert d (readTransfer a s).2) := by
    cases asserted
    · exact heldBlind_csAssert d h _
    · rfl
  have heff : ∀ t u, effHz d t (withHeld h u) = effHz d t u := fun _ _ => rfl
  have hcfg : (withHeld h s).cfg = s.cfg := rfl
  unfold runTransfer
  simp only [heldBlind_readTransfer a h, hselected, heff, hcfg, heldBlind_applySpeed]
  split
  · cases applySpeed (effHz d (readTransfer a s).1 _) _ with
    | error e => rfl
    | ok timed =>
      simp only [Except.map, heldBlind_xferChecked]
      cases xferChecked d (readTransfer a s).1 timed <;> rfl
  · rfl

theorem heldBlind_runTransfers (d : Slot) (ptr : Word) (h : Option Slot) :
    ∀ (left xi : Nat) (asserted : Bool) (actual : Word) (s : State),
      runTransfers d ptr left xi asserted actual (withHeld h s) =
        (runTransfers d ptr left xi asserted actual s).map fun r => (r.1, withHeld h r.2)
  | 0, _, _, _, _ => rfl
  | left + 1, xi, asserted, actual, s => by
    have hset : setXi xi (withHeld h s) = withHeld h (setXi xi s) := rfl
    simp only [runTransfers, hset, heldBlind_runTransfer]
    cases runTransfer d (ptr + BitVec.ofNat 32 (20 * xi)) asserted (setXi xi s) with
    | error e => rfl
    | ok r =>
      obtain ⟨t, got, u⟩ := r
      simp only [Except.map, heldBlind_csDeassert d h u]
      split
      · rfl
      · split
        · exact heldBlind_runTransfers d ptr h left (xi + 1) false _ _
        · exact heldBlind_runTransfers d ptr h left (xi + 1) true _ _

theorem heldBlind_runMessage (d : Slot) (ptr : Word) (cnt : Nat) (held h : Option Slot) (s : State) :
    runMessage d ptr cnt held (withHeld h s) = (runMessage d ptr cnt held s).map fun r => (r.1, withHeld h r.2) := by
  unfold runMessage
  rw [heldBlind_releaseHeld]
  split
  · rfl
  · split
    · rfl
    · split
      · exact heldBlind_runTransfers d ptr h cnt 0 true 0 s
      · exact heldBlind_runTransfers d ptr h cnt 0 false 0 _

theorem heldBlind_writeResults (m : Word) (r : SeqResult) : HeldBlind (writeResults m r) := fun h s => by
  simp only [writeResults, memWrite4_eq, withHeld]

/-- PROCESS_MSG does the same whatever `held_cs` shows. -/
theorem heldBlind_processMsg (d : Slot) (m : Word) (held h : Option Slot) (s : State) :
    processMsg d m held (withHeld h s) = (processMsg d m held s).map (withHeld h) := by
  unfold processMsg
  show (match slotReady d s, messageOk s.cfg m with
    | .error e, _ => _
    | _, .error e => _
    | .ok (), .ok () => _) = _
  cases slotReady d s with
  | error e => rfl
  | ok _ =>
    cases messageOk s.cfg m with
    | error e => rfl
    | ok _ =>
      simp only [heldBlind_memRead4 _ h, heldBlind_runMessage]
      cases runMessage d (memRead4 m s).1 (memRead4 (m + 4) (memRead4 m s).2).1.toNat held
        (memRead4 (m + 4) (memRead4 m s).2).2 with
      | error e => rfl
      | ok r => exact congrArg Except.ok (heldBlind_writeResults m r.1 h r.2)

end Sys2Proof.Machine
end

section
/-! SUPPORT. SUBMIT_ATOMIC (spec/44_queue_dispatcher.md R164, R165): its parts, the command issued to its end, and what the
Message it processes does. -/

namespace Sys2Proof.Machine

variable {s : State} {d : Slot} {m : Word}

/-! ### A Message seen from another state (R44, R45) -/

/-- What a Message says and what it starts with: memory, the platform, the device table and the mode latch. -/
structure SameMessages (s x : State) : Prop where
  cfg : x.cfg = s.cfg
  raced : x.raced = s.raced
  mem : x.mem = s.mem
  devs : x.devs = s.devs
  latch : x.latch = s.latch

theorem SameMessages.dev {x : State} (h : SameMessages s x) (d : Slot) : x.dev d = s.dev d := by
  unfold State.dev; simp only [h.devs]

theorem SameMessages.messageRuns {x : State} (h : SameMessages s x) (hr : messageRuns s d m) : messageRuns x d m := by
  obtain ⟨hready, hm⟩ := hr
  refine ⟨?_, h.cfg.symm ▸ hm⟩
  unfold State.ready at hready ⊢
  rw [h.cfg, h.dev]
  exact hready

/-- A well-formed Message is one in every state that has the same Messages. -/
theorem SameMessages.serves {x : State} (h : SameMessages s x) (hs : messageServes s d m) : messageServes x d m := by
  obtain ⟨hstarts, hok⟩ := hs
  have hword : ∀ a, x.wordAt a = s.wordAt a :=
    wordAt_congr hstarts.notRaced (h.raced.trans hstarts.notRaced) h.mem
  have hcount : x.transferCount m = s.transferCount m := congrArg BitVec.toNat (hword (m + 4))
  have haddr : ∀ k, x.transferAddr m k = s.transferAddr m k := fun k => congrArg (· + BitVec.ofNat 32 (20 * k)) (hword m)
  have htransfer : ∀ k, x.transferOf m k = s.transferOf m k := fun k => by
    simp only [State.transferOf, transferAt, haddr, hword]
  refine ⟨⟨?platform, ?operands, ?notRaced, ?speed, ?phase, ?heldPhase, ?some, ?array, ?kept⟩, fun k hk => ?legal⟩
  case platform => exact h.cfg.symm ▸ hstarts.platform
  case operands => exact h.messageRuns hstarts.operands
  case notRaced => exact h.raced.trans hstarts.notRaced
  case speed => rw [h.dev]; exact hstarts.speed
  case phase => rw [h.dev, h.cfg]; exact hstarts.phase
  case heldPhase => rw [h.latch, h.cfg]; exact hstarts.heldPhase
  case some => rw [hcount]; exact hstarts.some
  case array => rw [hword, hcount]; exact hstarts.array
  case kept =>
    intro j hj k hk i hi
    rw [hcount] at hj
    rw [htransfer, haddr]
    exact hstarts.kept j hj k hk i hi
  case legal =>
    rw [hcount] at hk
    unfold descriptorOk
    rw [htransfer, haddr, h.cfg]
    exact hok k hk

/-! ### The parts of SUBMIT_ATOMIC (R164) -/

/-- The state PROCESS_MSG of an admitted command starts in. -/
def atomicStart (d : Slot) (m : Word) (s : State) : State :=
  if atomicHazard d s then releaseHeld s.heldCs (enterAtomic d m s) else enterAtomic d m s

/-- The held state PROCESS_MSG of an admitted command starts with. -/
def atomicHeld (d : Slot) (s : State) : Option Slot := if atomicHazard d s then none else s.heldCs

theorem callerMove_enterAtomic (d : Slot) (m : Word) (s : State) :
    callerMove (enterAtomic d m s) =
      (processMsg d m (atomicHeld d s) (atomicStart d m s)).map fun u => { u with caller := .processed u.seq } := by
  have hmove : callerMove (enterAtomic d m s) = processAtomic (atomicHazard d s) { msg := m, dev := d } (enterAtomic d m s) :=
    rfl
  rw [hmove]
  show (match processMsg d m (atomicHeld d s) (atomicStart d m s) with
    | .error r => Except.error r
    | .ok u => .ok { u with caller := .processed u.seq }) = _
  cases processMsg d m (atomicHeld d s) (atomicStart d m s) <;> rfl

/-- Up to its inflight Message and its caller, PROCESS_MSG of the command starts in `s` with the select released. -/
theorem sameControl_atomicStart (d : Slot) (m : Word) (s : State) :
    SameControl (enterAtomic d m s) (atomicStart d m s) := by
  unfold atomicStart
  split
  · exact sameControl_releaseHeld _ _
  · exact .refl _

theorem sameMessages_atomicStart (d : Slot) (m : Word) (s : State) : SameMessages s (atomicStart d m s) := by
  have hc := sameControl_atomicStart d m s
  have hboth : (atomicStart d m s).mem = s.mem ∧ (atomicStart d m s).latch = s.latch := by
    unfold atomicStart
    split
    · have h := carried_releaseHeld s.heldCs (enterAtomic d m s)
      exact ⟨h.mem, h.latch⟩
    · exact ⟨rfl, rfl⟩
  exact ⟨hc.cfg, hc.raced, hboth.1, hc.devs, hboth.2⟩

/-- What SUBMIT_ATOMIC leaves when its Message left `u`. -/
def atomicEnd (u : State) : State :=
  { u with heldCs := u.seq.held, inflight := none, caller := .idle, result := resultOf u.seq.status }

/-- With no byte raced the write-back drops no mark. -/
theorem writeBackAtomic_of_nil (r : SeqResult) (h : s.raced = []) :
    writeBackAtomic r s = { s with heldCs := r.held, inflight := none, caller := .idle
                                   answers := s.answers ++ [resultOf r.status] } := by
  unfold writeBackAtomic
  cases s.inflight with
  | none => rfl
  | some e => simp only [dropMarks_of_nil e.msg s h]

/-- The write-back and RESULT of a command whose Message left `u`: they drop marks at most besides. -/
theorem writeAnswer_writeBackAtomic (u : State) : ∃ raced,
    writeAnswer u.answers.length (writeBackAtomic u.seq { u with caller := .processed u.seq }) =
      { atomicEnd u with raced := raced } := by
  obtain ⟨raced, heq⟩ := writeBackAtomic_eq u.seq { u with caller := .processed u.seq }
  rw [heq]
  exact ⟨raced, writeAnswer_append (resultOf u.seq.status) u.answers _ rfl⟩

theorem writeAnswer_writeBackAtomic_of_nil {u : State} (h : u.raced = []) :
    writeAnswer u.answers.length (writeBackAtomic u.seq { u with caller := .processed u.seq }) = atomicEnd u := by
  rw [writeBackAtomic_of_nil (s := { u with caller := .processed u.seq }) u.seq h]
  exact writeAnswer_append (resultOf u.seq.status) u.answers _ rfl

/-- The command issued to its end: its operands are legal, the sequencer is free, and its Message leaves some `u`. -/
theorem runAtomic_iff {t : State} : runAtomic d m s = .ok t ↔
    s.ready d = true ∧ descriptorAddress m = true ∧ s.inflight = none ∧
      ∃ u, processMsg d m (atomicHeld d s) (atomicStart d m s) = .ok u ∧
        t = writeAnswer s.answers.length (writeBackAtomic u.seq { u with caller := .processed u.seq }) := by
  constructor
  · intro h
    obtain ⟨s1, s2, s3, h1, h2, h3, rfl⟩ := runAtomic_ok h
    obtain ⟨hready, haddr, hfree, rfl⟩ := admission_ok.1 h1
    rw [callerMove_enterAtomic] at h2
    cases hp : processMsg d m (atomicHeld d s) (atomicStart d m s) with
    | error e => rw [hp] at h2; cases h2
    | ok u =>
      rw [hp] at h2
      cases h2
      cases h3
      exact ⟨hready, haddr, hfree, u, rfl, rfl⟩
  · rintro ⟨hready, haddr, hfree, u, hp, rfl⟩
    unfold runAtomic
    rw [admission_ok.2 ⟨hready, haddr, hfree, rfl⟩]
    simp only
    rw [callerMove_enterAtomic, hp]
    rfl

/-- The control fields of what the Message of a command leaves. -/
theorem sameControl_atomicMessage {u : State} (hp : processMsg d m (atomicHeld d s) (atomicStart d m s) = .ok u) :
    SameControl { enterAtomic d m s with seq := u.seq } u := by
  have hstart := sameControl_atomicStart d m s
  exact SameControl.trans (t := { atomicStart d m s with seq := u.seq }) { hstart with seq := rfl } (processMsg_control hp)

/-- SUBMIT_ATOMIC of a Message that leaves `u`, with no byte raced. -/
theorem exec_submitAtomic_eq {u : State} (hmis : s.misconfigured = false) (hready : s.ready d = true)
    (haddr : descriptorAddress m = true) (hfree : s.inflight = none) (hraced : s.raced = [])
    (hp : processMsg d m (atomicHeld d s) (atomicStart d m s) = .ok u) :
    exec (.submitAtomic d m) s = .next (atomicEnd u) := by
  have hc := sameControl_atomicMessage hp
  have hanswers : s.answers = u.answers := hc.answers.symm
  have hrun := runAtomic_iff.2 ⟨hready, haddr, hfree, u, hp, rfl⟩
  rw [hanswers, writeAnswer_writeBackAtomic_of_nil (hc.raced.trans hraced)] at hrun
  show execSubmitAtomic d m s = _
  unfold execSubmitAtomic
  rw [hmis, hrun]
  rfl

/-- SUBMIT_ATOMIC of a well-formed Message with Transfers is PROCESS_MSG from the start of the command, whatever select its
state shows as held. -/
theorem exec_submitAtomic_of_serves (hmis : s.misconfigured = false) (hfree : s.inflight = none)
    (hs : messageServes s d m) :
    ∃ u gots, exec (.processMsg d m) (withHeld (atomicHeld d s) (atomicStart d m s)) = .next u ∧
      Served (withHeld (atomicHeld d s) (atomicStart d m s)) u d m gots ∧
      exec (.submitAtomic d m) s = .next (atomicEnd u) := by
  obtain ⟨hready, hm⟩ := hs.1.operands
  obtain ⟨hcfg, hraced, hmem, hdevs, hlatch⟩ := sameMessages_atomicStart d m s
  have hserves : messageServes (withHeld (atomicHeld d s) (atomicStart d m s)) d m :=
    SameMessages.serves ⟨hcfg, hraced, hmem, hdevs, hlatch⟩ hs
  obtain ⟨u, gots, hexec, hserved⟩ := exec_processMsg_of_serves hserves
  refine ⟨u, gots, hexec, hserved, ?_⟩
  have hmsg : processMsg d m (atomicHeld d s) (withHeld (atomicHeld d s) (atomicStart d m s)) = .ok u :=
    outcome_eq_next.1 hexec
  rw [heldBlind_processMsg] at hmsg
  cases hp : processMsg d m (atomicHeld d s) (atomicStart d m s) with
  | error e => rw [hp] at hmsg; cases hmsg
  | ok v =>
    rw [hp] at hmsg
    obtain rfl : withHeld (atomicHeld d s) v = u := Except.ok.inj hmsg
    exact exec_submitAtomic_eq (u := v) hmis hready (messageOk_iff.1 hm).1 hfree hs.1.notRaced hp

/-! ### A Message without Transfers (R138) -/

theorem processMsg_zero {h : Option Slot} (hruns : messageRuns s d m) (hraced : s.raced = [])
    (hzero : s.wordAt (m + 4) = 0) :
    ∃ u, processMsg d m h s = .ok u ∧ u.seq = { held := none, status := 0, actual := 0 } := by
  have hcount : s.transferCount m = 0 := by unfold State.transferCount; rw [hzero]; rfl
  rw [processMsg_eq hruns hraced]
  unfold runMessage
  rw [if_pos hcount]
  exact ⟨_, rfl, rfl⟩

/-- Settles O44: the command is its parts, and PROCESS_MSG does the same on the released state whatever `held_cs`
shows. -/
theorem atomicBypassesQueue : Obligations.AtomicBypassesQueue := by
  refine ⟨fun s header arg0 d hazard hdec hmis hready haddr hfree hhazard => ?admission,
    fun s r hcaller hraced => ?writeBack, fun s i w hw => ?answer, fun s a b c d m hmis ha hb hc => ?parts,
    fun s t d m hmis h => ?frame, fun s d m hazard hmis hfree hs hhazard => ?serves,
    fun s d m hmis hruns hfree hraced hzero => ?zero⟩
  case admission =>
    obtain rfl : hazard = atomicHazard d s := Bool.eq_iff_iff.2 (hhazard.trans (atomicHazard_iff d s).symm)
    have hadm : admission d arg0 { s with arg0 := arg0 } = .ok (enterAtomic d arg0 { s with arg0 := arg0 }) :=
      admission_ok.2 ⟨hready, haddr, hfree, rfl⟩
    show beginCommand header arg0 s = _
    unfold beginCommand
    rw [hdec]
    show beginAtomic d arg0 { s with arg0 := arg0 } = _
    unfold beginAtomic
    rw [hadm, if_neg (by rw [hmis]; exact Bool.false_ne_true)]
    rfl
  case writeBack =>
    show outcome (callerMove s) = _
    unfold callerMove
    rw [hcaller]
    exact congrArg Host.Outcome.next (writeBackAtomic_of_nil r hraced)
  case answer =>
    show Host.Outcome.next (writeAnswer i s) = _
    unfold writeAnswer
    rw [hw]
    rfl
  case parts =>
    unfold beginAtomic at ha
    rw [hmis] at ha
    have hb' : callerMove a = .ok b := outcome_eq_next.1 hb
    have hc' : callerMove b = .ok c := outcome_eq_next.1 hc
    show execSubmitAtomic d m s = .next (writeAnswer s.answers.length c)
    unfold execSubmitAtomic runAtomic
    rw [hmis, outcome_eq_next.1 ha]
    simp only
    rw [hb']
    simp only
    rw [hc']
    rfl
  case frame =>
    change execSubmitAtomic d m s = .next t at h
    unfold execSubmitAtomic at h
    rw [hmis] at h
    obtain ⟨-, -, -, u, hp, rfl⟩ := runAtomic_iff.1 (outcome_eq_next.1 h)
    have hc := sameControl_atomicMessage hp
    have hanswers : s.answers = u.answers := hc.answers.symm
    obtain ⟨raced, heq⟩ := writeAnswer_writeBackAtomic u
    rw [hanswers, heq]
    exact ⟨hc.queue, hc.busy, hc.comp, hc.devs, hc.worker, rfl, rfl, rfl, rfl, rfl, hc.arg0, hc.compIe, hc.gpioPP,
      hc.gpioOD, hc.cfg⟩
  case serves =>
    intro admitted start
    have hstart : start = withHeld (atomicHeld d s) (atomicStart d m s) := by
      obtain rfl : hazard = atomicHazard d s := Bool.eq_iff_iff.2 (hhazard.trans (atomicHazard_iff d s).symm)
      show (if atomicHazard d s then _ else _) = _
      unfold atomicHeld atomicStart
      cases atomicHazard d s <;> rfl
    rw [hstart]
    exact exec_submitAtomic_of_serves hmis hfree hs
  case zero =>
    have hsame := sameMessages_atomicStart d m s
    have hraced' := hsame.raced.trans hraced
    have hword := (wordAt_congr hraced hraced' hsame.mem (m + 4)).trans hzero
    obtain ⟨u, hp, hseq⟩ := processMsg_zero (h := atomicHeld d s) (hsame.messageRuns hruns) hraced' hword
    refine ⟨_, exec_submitAtomic_eq hmis hruns.1 (messageOk_iff.1 hruns.2).1 hfree hraced hp, ?_, ?_⟩
    · exact congrArg (fun r : SeqResult => resultOf r.status) hseq
    · exact congrArg SeqResult.held hseq

end Sys2Proof.Machine
end

section
/-! SUPPORT. The decoder and the encoder are inverse to each other, format by format, and what the CMD decoder answers
(spec/30_encoding.md R65 to R80). -/

namespace Sys2Proof

/-! ### The immediate of each format (R70, R73, R75, R77) -/

theorem regdevImm_fields (bpw mode : Byte) :
    (0#4 ++ bpw ++ mode).extractLsb' 16 4 = 0 ∧ (0#4 ++ bpw ++ mode).extractLsb' 8 8 = bpw ∧
      (0#4 ++ bpw ++ mode).extractLsb' 0 8 = mode := by
  refine ⟨?_, ?_, BitVec.extractLsb'_append_eq_right⟩
  · rw [BitVec.extractLsb'_append_eq_of_le (by decide)]
    exact BitVec.extractLsb'_append_eq_left
  · rw [BitVec.extractLsb'_append_eq_of_le (by decide)]
    exact BitVec.extractLsb'_append_eq_right

theorem gpioDirImm_fields (direction : BitVec 2) :
    (0#18 ++ direction).extractLsb' 2 18 = 0 ∧ (0#18 ++ direction).extractLsb' 0 2 = direction :=
  ⟨BitVec.extractLsb'_append_eq_left, BitVec.extractLsb'_append_eq_right⟩

theorem shiftByteImm_fields (cpha cpol wantRx : Bool) (tx : Byte) :
    let imm := 0#9 ++ BitVec.ofBool cpha ++ BitVec.ofBool cpol ++ BitVec.ofBool wantRx ++ tx
    imm.extractLsb' 11 9 = 0 ∧ imm.getLsbD 10 = cpha ∧ imm.getLsbD 9 = cpol ∧ imm.getLsbD 8 = wantRx ∧
      imm.extractLsb' 0 8 = tx := by
  refine ⟨?_, ?_, ?_, ?_, BitVec.extractLsb'_append_eq_right⟩
  · iterate 3 rw [BitVec.extractLsb'_append_eq_of_le (by decide)]
    exact BitVec.extractLsb'_append_eq_left
  all_goals
    iterate 4 rw [BitVec.getLsbD_append]
    simp

theorem shiftWordImm_fields (cpol : Bool) (count : BitVec 6) :
    let imm := 0#11 ++ BitVec.ofBool cpol ++ 0#2 ++ count
    imm.extractLsb' 9 11 = 0 ∧ imm.getLsbD 8 = cpol ∧ imm.extractLsb' 6 2 = 0 ∧ imm.extractLsb' 0 6 = count := by
  refine ⟨?_, ?_, ?_, BitVec.extractLsb'_append_eq_right⟩
  · iterate 2 rw [BitVec.extractLsb'_append_eq_of_le (by decide)]
    exact BitVec.extractLsb'_append_eq_left
  · iterate 3 rw [BitVec.getLsbD_append]
    simp
  · rw [BitVec.extractLsb'_append_eq_of_le (by decide)]
    exact BitVec.extractLsb'_append_eq_right

theorem regdevImm_of_fields {imm : BitVec 20} (h : imm.extractLsb' 16 4 = 0) :
    0#4 ++ imm.extractLsb' 8 8 ++ imm.extractLsb' 0 8 = imm := by
  rw [show 0#4 = imm.extractLsb' 16 4 from h.symm, BitVec.extractLsb'_append_extractLsb'_eq_extractLsb' (by rfl),
    BitVec.extractLsb'_append_extractLsb'_eq_extractLsb' (by rfl)]
  exact BitVec.extractLsb'_eq_self

theorem gpioDirImm_of_fields {imm : BitVec 20} (h : imm.extractLsb' 2 18 = 0) : 0#18 ++ imm.extractLsb' 0 2 = imm := by
  rw [show 0#18 = imm.extractLsb' 2 18 from h.symm, BitVec.extractLsb'_append_extractLsb'_eq_extractLsb' (by rfl)]
  exact BitVec.extractLsb'_eq_self

/-- One bit of a value as a field of width 1. -/
theorem ofBool_getLsbD {w : Nat} (x : BitVec w) (i : Nat) : BitVec.ofBool (x.getLsbD i) = x.extractLsb' i 1 := by
  ext j hj
  obtain rfl : j = 0 := by omega
  simp

theorem shiftByteImm_of_fields {imm : BitVec 20} (h : imm.extractLsb' 11 9 = 0) :
    0#9 ++ BitVec.ofBool (imm.getLsbD 10) ++ BitVec.ofBool (imm.getLsbD 9) ++ BitVec.ofBool (imm.getLsbD 8) ++
      imm.extractLsb' 0 8 = imm := by
  rw [show 0#9 = imm.extractLsb' 11 9 from h.symm, ofBool_getLsbD, ofBool_getLsbD, ofBool_getLsbD]
  iterate 4 rw [BitVec.extractLsb'_append_extractLsb'_eq_extractLsb' (by rfl)]
  exact BitVec.extractLsb'_eq_self

theorem shiftWordImm_of_fields {imm : BitVec 20} (h : imm.extractLsb' 9 11 = 0) (h' : imm.extractLsb' 6 2 = 0) :
    0#11 ++ BitVec.ofBool (imm.getLsbD 8) ++ 0#2 ++ imm.extractLsb' 0 6 = imm := by
  rw [show 0#11 = imm.extractLsb' 9 11 from h.symm, show 0#2 = imm.extractLsb' 6 2 from h'.symm, ofBool_getLsbD]
  iterate 3 rw [BitVec.extractLsb'_append_extractLsb'_eq_extractLsb' (by rfl)]
  exact BitVec.extractLsb'_eq_self

/-! ### Both directions of the round trip (R65) -/

theorem accept_ok {headerClean argsClean : Bool} {i j : Instr} :
    accept headerClean argsClean i = .ok j ↔ headerClean = true ∧ argsClean = true ∧ i = j := by
  unfold accept
  cases headerClean <;> cases argsClean <;> simp

/-- Settles O1: a header keeps its three fields, and the four immediates that hold operands keep theirs. -/
theorem decodeOfEncode : Obligations.DecodeOfEncode := by
  intro i
  cases i with
  | regdev dev bpw mode hz => simp [encode, decode, accept_ok, regdevImm_fields]
  | gpioDir direction mask => simp [encode, decode, accept_ok, gpioDirImm_fields]
  | shiftByte cpha cpol wantRx tx => simp [encode, decode, accept_ok, shiftByteImm_fields, -BitVec.getLsbD_eq_getElem]
  | shiftWord cs cpol count tx => simp [encode, decode, accept_ok, shiftWordImm_fields, -BitVec.getLsbD_eq_getElem]
  | _ => simp [encode, decode, accept_ok]

/-- A triple is its three header fields and its two argument words. -/
theorem triple_of_fields {t : Triple} {op : BitVec 8} {dev : Slot} {imm : BitVec 20} {a0 a1 : Word}
    (hop : opField t.header = op) (hdev : dev = devField t.header) (himm : imm = immField t.header)
    (h0 : a0 = t.arg0) (h1 : a1 = t.arg1) : { header := mkHeader op dev imm, arg0 := a0, arg1 := a1 } = t := by
  rw [← hop, hdev, himm, mkHeader_fields, h0, h1]

/-- Settles O2: what the decoder checks to be 0 is what the encoding has as 0, in the header and in the arguments. -/
theorem encodeOfDecode : Obligations.EncodeOfDecode := by
  intro t i
  fun_cases decode t
  case case17 => exact nofun
  all_goals
    rename_i hop
    intro haccept
    obtain ⟨hheader, hargs, rfl⟩ := accept_ok.1 haccept
    simp +zetaDelta only [Bool.and_eq_true, decide_eq_true_eq] at hheader hargs
  -- REGDEV, GPIO_DIR, SHIFT_BYTE and SHIFT_WORD have operands in the immediate; every other operation has it 0.
  case case1 => exact triple_of_fields hop rfl (regdevImm_of_fields hheader) rfl hargs.symm
  case case6 => exact triple_of_fields hop hheader.1.symm (gpioDirImm_of_fields hheader.2) rfl hargs.symm
  case case8 =>
    exact triple_of_fields hop hheader.1.symm (shiftByteImm_of_fields hheader.2) hargs.1.symm hargs.2.symm
  case case9 => exact triple_of_fields hop rfl (shiftWordImm_of_fields hheader.1 hheader.2) rfl hargs.symm
  all_goals refine triple_of_fields hop ?_ ?_ ?_ ?_ <;> simp +zetaDelta only [hheader, hargs]

/-! ### Words written to CMD (R68) -/

theorem extractLsb'_immField (w : Word) {start len : Nat} (h : start + len ≤ 20) :
    (immField w).extractLsb' start len = w.extractLsb' start len :=
  BitVec.extractLsb'_extractLsb'_of_le h

/-- Bit 31 of a header is the highest bit of its opcode (R66). -/
theorem hostClass_eq (w : Word) : hostClass w = !(opField w).getLsbD 7 := by
  unfold hostClass opField
  rw [BitVec.getLsbD_extractLsb']
  rfl

/-- With bit 31 clear only the three host commands have an opcode. -/
theorem decode_of_host_reserved {t : Triple} (hhost : hostClass t.header = true) (h1 : opField t.header ≠ 0x01)
    (h2 : opField t.header ≠ 0x02) (h3 : opField t.header ≠ 0x03) : decode t = .error .reservedOpcode := by
  rw [hostClass_eq] at hhost
  fun_cases decode t
  case case1 hop => exact absurd hop h1
  case case2 hop => exact absurd hop h2
  case case3 hop => exact absurd hop h3
  case case17 => rfl
  all_goals
    rename_i hop
    change opField t.header = _ at hop
    rw [hop] at hhost
    exact absurd hhost (by decide)

theorem decodeCmd_regdev {w : Word} (h : opField w = 0x01) (arg0 : Word) :
    decodeCmd w arg0 = accept (decide (w.extractLsb' 16 4 = 0)) true
      (.regdev (devField w) (w.extractLsb' 8 8) (w.extractLsb' 0 8) arg0) := by
  have hhost : hostClass w = true := by rw [hostClass_eq, h]; rfl
  simp [decodeCmd, hhost, decode, h, extractLsb'_immField]

theorem decodeCmd_submit {w : Word} (h : opField w = 0x02) (arg0 : Word) :
    decodeCmd w arg0 = accept (decide (immField w = 0)) true (.submit (devField w) arg0) := by
  have hhost : hostClass w = true := by rw [hostClass_eq, h]; rfl
  simp [decodeCmd, hhost, decode, h]

theorem decodeCmd_submitAtomic {w : Word} (h : opField w = 0x03) (arg0 : Word) :
    decodeCmd w arg0 = accept (decide (immField w = 0)) true (.submitAtomic (devField w) arg0) := by
  have hhost : hostClass w = true := by rw [hostClass_eq, h]; rfl
  simp [decodeCmd, hhost, decode, h]

theorem decodeCmd_invalid {w : Word} (h1 : opField w ≠ 0x01) (h2 : opField w ≠ 0x02) (h3 : opField w ≠ 0x03)
    (arg0 : Word) : ∃ e, decodeCmd w arg0 = .error e := by
  unfold decodeCmd
  split
  next hhost => exact ⟨_, decode_of_host_reserved hhost h1 h2 h3⟩
  next => exact ⟨_, rfl⟩

/-- An accepted operation as the answer it is, INVALID as `none`. -/
theorem accept_toOption (headerClean : Bool) (i : Instr) :
    (match accept headerClean true i with
      | .ok j => some j
      | .error _ => none) = if headerClean = true then some i else none := by
  cases headerClean <;> rfl

/-- Settles O3: each host command by its opcode, and every other word is INVALID. -/
theorem cmdDecodesHostCommandsOnly : Obligations.CmdDecodesHostCommandsOnly := by
  intro w arg0
  have hop : w.extractLsb' 24 8 = opField w := rfl
  have hdev : w.extractLsb' 20 4 = devField w := rfl
  have himm : w.extractLsb' 0 20 = immField w := rfl
  rw [hop, hdev, himm]
  by_cases h1 : opField w = 0x01
  · rw [decodeCmd_regdev h1]
    refine (accept_toOption _ _).trans ?_
    simp [h1]
  by_cases h2 : opField w = 0x02
  · rw [decodeCmd_submit h2]
    refine (accept_toOption _ _).trans ?_
    simp [h2]
  by_cases h3 : opField w = 0x03
  · rw [decodeCmd_submitAtomic h3]
    refine (accept_toOption _ _).trans ?_
    simp [h3]
  · obtain ⟨e, he⟩ := decodeCmd_invalid h1 h2 h3 arg0
    rw [he, if_neg (h1 ·.1), if_neg (h2 ·.1), if_neg (h3 ·.1)]

/-- Settles O4: the decoder run on each word. -/
theorem specWordsDecode : Obligations.SpecWordsDecode := by
  unfold Obligations.SpecWordsDecode; decide

end Sys2Proof
end

section
/-! SUPPORT. SHIFT_WORD of any legal count (spec/41_bit_engine.md R104, R106): the lines after a unit, the word
received, the fields a unit leaves alone, and the statement about it. -/

namespace Sys2Proof.Machine

/-! ### The lines after a unit (R104) -/

/-- A unit leaves SCK and MOSI where its last bit, bit 0 of SR_TX, puts them. -/
theorem shiftBits_exit {one : Bool → State → State} {c : Config} {cpol : Bool}
    (hcfg : ∀ b s, (one b s).cfg = s.cfg) (htx : ∀ b s, (one b s).srTx = s.srTx)
    (hone : ∀ b s, s.cfg = c →
      (one b s).gpioOut.getLsbD c.sck = cpol ∧ (one b s).gpioOut.getLsbD c.mosi = b) :
    ∀ (k : Nat) (s : State), s.cfg = c → (shiftBits one (k + 1) s).gpioOut.getLsbD c.sck = cpol ∧
      (shiftBits one (k + 1) s).gpioOut.getLsbD c.mosi = s.srTx.getLsbD 0
  | 0, s, hs => hone _ s hs
  | k + 1, s, hs => by
    obtain ⟨hsck, hmosi⟩ :=
      shiftBits_exit hcfg htx hone k (one (s.srTx.getLsbD (k + 1)) s) ((hcfg _ _).trans hs)
    exact ⟨hsck, hmosi.trans (by rw [htx])⟩

/-- One bit of the peripheral leaves SCK idle and its bit on MOSI. -/
theorem bitHw_exit {c : Config} (hc : c.wf = true) (cpol b : Bool) (s : State) (hs : s.cfg = c) :
    (bitHw cpol b s).gpioOut.getLsbD c.sck = cpol ∧ (bitHw cpol b s).gpioOut.getLsbD c.mosi = b := by
  obtain ⟨hsck, hmosi, -, hne, -⟩ := Config.wf_bus hc
  subst hs
  rw [bitHw_eq]
  constructor
  · simp only [getLsbD_lineOut _ _ _ _ hsck, if_true]
  · simp only [getLsbD_lineOut _ _ _ _ hmosi, if_neg hne.symm, if_true]

/-! ### The word received (R106) -/

/-- The answers shifted into a cleared SR_RX fill as many bits as there are answers. -/
theorem foldl_shiftIn_lt (c : Config) (ms : List Word) : (ms.foldl (shiftIn c) 0).toNat < 2 ^ ms.length := by
  refine Nat.lt_pow_two_of_testBit _ fun i hi => ?_
  rw [BitVec.testBit_toNat]
  by_cases h32 : i < 32
  · rw [getLsbD_foldl_shiftIn c ms 0 i h32, if_neg (Nat.not_lt.2 hi)]
    exact BitVec.getLsbD_zero
  · exact BitVec.getLsbD_of_ge _ _ (Nat.le_of_not_lt h32)

/-- The first answer is the highest bit of the word received. -/
theorem getLsbD_received (c : Config) {ms : List Word} {j : Nat} (hj : j < ms.length) (hms : ms.length ≤ 32) :
    (ms.foldl (shiftIn c) 0).getLsbD (ms.length - 1 - j) = (ms.getD j 0).getLsbD c.miso := by
  rw [getLsbD_foldl_shiftIn c ms 0 _ (by omega), if_pos (by omega),
    show ms.length - 1 - (ms.length - 1 - j) = j by omega]

/-! ### The fields a unit leaves alone -/

/-- With the engine's own fields and the result put back, the state after a unit is the state before it. -/
theorem SameUnit.frame {s t : State} (h : SameUnit s t) (ret : Word) :
    { { t with ret := ret } with
      gpioOut := s.gpioOut, srTx := s.srTx, srRx := s.srRx, hwCtrl := s.hwCtrl, bitCnt := s.bitCnt, pos := s.pos,
      trace := s.trace, lineScript := s.lineScript, draws := s.draws, ret := s.ret } = s := by
  simp only [h.cfg, h.raced, h.agenda, h.heldCs, h.inflight, h.queue, h.busy, h.worker, h.caller, h.answers, h.seq,
    h.devs, h.arg0, h.result, h.compIe, h.comp, h.busData, h.misconfigured, h.gpioPP, h.gpioOD, h.mem, h.latch,
    h.speed]

/-! ### SHIFT_WORD (R106) -/

/-- SHIFT_WORD completes with the peripheral, on an existing slot and a legal count (R81, R106). -/
theorem execShiftWord_eq {cs : Slot} {count : BitVec 6} {s : State} (heng : s.cfg.engine = .hwShift)
    (hslot : s.cfg.hasSlot cs = true) (hpos : 1 ≤ count.toNat) (hmax : count.toNat ≤ 32) (cpol : Bool) (tx : Word) :
    execShiftWord cs cpol count tx s =
      .next { (shiftWord cs cpol count tx s).2 with ret := (shiftWord cs cpol count tx s).1 } := by
  unfold execShiftWord
  rw [if_neg (not_not.2 heng), hslot, if_neg (by decide), if_neg (by omega)]

/-- What SHIFT_WORD loads before its first bit. -/
def wordLoaded (cs : Slot) (cpol : Bool) (count : BitVec 6) (tx : Word) (s : State) : State :=
  loadUnit tx count { s with hwCtrl := (encode (.shiftWord cs cpol count tx)).header }

theorem shiftWord_eq (cs : Slot) (cpol : Bool) (count : BitVec 6) (tx : Word) (s : State) :
    shiftWord cs cpol count tx s =
      ((shiftBits (bitHw cpol) count.toNat (wordLoaded cs cpol count tx s)).srRx,
        endUnit (shiftBits (bitHw cpol) count.toNat (wordLoaded cs cpol count tx s))) := rfl

/-- Settles O15: the loop of bits says the events, the word received and BITCNT; HW_CTRL is what was loaded; the lines
are those of the last bit. -/
theorem shiftWordOnTheWire : Obligations.ShiftWordOnTheWire := by
  intro s cs cpol count tx heng hslot hpos hmax
  have hsame := sameUnit_shiftWord cs cpol count tx s
  refine ⟨_, execShiftWord_eq heng hslot hpos hmax cpol tx, ?_⟩
  rw [shiftWord_eq] at hsame ⊢
  have hunit := shiftBits_unit (bitStep_hw cpol s.cfg s.speed.softDelayNs) count.toNat
    (wordLoaded cs cpol count tx s) rfl rfl
  have hctrl : (shiftBits (bitHw cpol) count.toNat (wordLoaded cs cpol count tx s)).hwCtrl =
      (encode (.shiftWord cs cpol count tx)).header := hwCtrl_shiftBits (fun b u => by rw [bitHw_eq]) _ _
  have hsamples : (wordLoaded cs cpol count tx s).samples count.toNat = s.samples count.toNat :=
    samples_congr _ rfl rfl rfl
  have hlen := length_samples count.toNat s
  have hrx := hunit.srRx
  rw [if_pos rfl, hsamples] at hrx
  refine ⟨?events, fun j hj => ?received, ?bound, hctrl, ?counted, hsame.frame _, fun hwf => ?lines⟩
  case events => exact hunit.trace.trans (by rw [hsamples]; rfl)
  case received =>
    have hbit := getLsbD_received s.cfg (hlen.symm ▸ hj) (hlen.symm ▸ hmax)
    rw [hlen] at hbit
    exact (congrArg (fun w : Word => w.getLsbD (count.toNat - 1 - j)) hrx).trans hbit
  case bound =>
    have hlt := foldl_shiftIn_lt s.cfg (s.samples count.toNat)
    rw [hlen] at hlt
    exact (congrArg BitVec.toNat hrx).trans_lt hlt
  case counted =>
    refine hunit.bitCnt.trans ?_
    rw [BitVec.ofNat_toNat, BitVec.setWidth_eq]
    exact BitVec.sub_self _
  case lines =>
    obtain ⟨k, hk⟩ := Nat.exists_eq_add_of_le' hpos
    rw [hk]
    exact shiftBits_exit (fun b u => by rw [bitHw_eq]) (fun b u => by rw [bitHw_eq]) (bitHw_exit hwf cpol) k _ rfl

end Sys2Proof.Machine
end

section
/-! SUPPORT. Where the line operations, the shifts, SET_SPEED and the operations that name a slot stop
(spec/30_encoding.md R81, spec/40_gpio_lines.md R91, spec/41_bit_engine.md R103, R106, spec/42_speed_calculator.md R120,
spec/44_queue_dispatcher.md R156). -/

namespace Sys2Proof.Machine

/-! ### Operands of the line operations (R81, R91) -/

/-- Direction 3 is the only one without a meaning (R73, R81). -/
theorem dirOperand_isSome : ∀ direction : BitVec 2, direction ≠ 3 → (dirOperand direction).isSome = true := by
  decide

/-- Settles O8: the masks are compared before they are cut to own lines, and the direction before its mask. -/
theorem illegalLineOperandsRefused : Obligations.IllegalLineOperandsRefused := by
  refine ⟨fun s high low hboth => ?overlap, fun s high low hapart hown => ?range, fun s mask => rfl,
    fun s direction mask hdir hown => ?dirRange⟩
  case overlap => exact if_pos hboth
  case range =>
    show execGpioSet high low s = _
    unfold execGpioSet
    rw [if_neg (not_not.2 hapart), hown]
    rfl
  case dirRange =>
    obtain ⟨dir, hdir⟩ := Option.isSome_iff_exists.1 (dirOperand_isSome direction hdir)
    show execGpioDir direction mask s = _
    unfold execGpioDir
    rw [hdir, hown]
    rfl

/-! ### Operands of the engine and of SET_SPEED (R81, R103, R106, R120) -/

/-- Where the peripheral exists, SHIFT_WORD stops on a slot that does not. -/
theorem execShiftWord_noSuchSlot {cs : Slot} {s : State} (heng : s.cfg.engine = .hwShift)
    (hslot : s.cfg.hasSlot cs = false) (cpol : Bool) (count : BitVec 6) (tx : Word) :
    execShiftWord cs cpol count tx s = .refused .noSuchSlot := by
  unfold execShiftWord
  rw [if_neg (not_not.2 heng), hslot]
  rfl

/-- Settles O16: SHIFT_WORD asks for the peripheral, then the slot, then the count; the other two have one condition. -/
theorem engineStops : Obligations.EngineStops := by
  refine ⟨fun s cs cpol count tx heng => ?engine,
    fun s cs cpol count tx heng hslot => execShiftWord_noSuchSlot heng hslot cpol count tx,
    fun s cs cpol count tx heng hslot hcount => ?count, fun s cpol wantRx tx hphase => ?phase, fun s => rfl⟩
  case engine => exact if_pos (by rw [heng]; decide)
  case count =>
    show execShiftWord cs cpol count tx s = _
    unfold execShiftWord
    rw [if_neg (not_not.2 heng), hslot]
    exact if_pos hcount
  case phase =>
    show execShiftByte true cpol wantRx tx s = _
    unfold execShiftByte phaseOk
    rw [hphase]
    rfl

/-! ### Slots (R81, R156, U4) -/

/-- A slot that is not ready is refused as absent or as not registered. -/
theorem slotReady_of_not_ready {d : Slot} {s : State} (h : s.ready d = false) :
    ∃ r, (r = .noSuchSlot ∨ r = .slotNotRegistered) ∧ slotReady d s = .error r := by
  unfold State.ready at h
  unfold slotReady
  cases hslot : s.cfg.hasSlot d with
  | false => exact ⟨_, .inl rfl, rfl⟩
  | true =>
    rw [hslot, Bool.true_and] at h
    exact ⟨_, .inr rfl, by rw [h]; rfl⟩

theorem submitOperands_of_slot {d : Slot} {m : Word} {s : State} {r : Refusal} (h : slotReady d s = .error r) :
    submitOperands d m s = .error r := by
  unfold submitOperands
  rw [h]

/-- Settles O28: the slot is the first thing each operation asks for, and the five that need it registered ask the same
`slotReady`. -/
theorem unregisteredSlotRefused : Obligations.UnregisteredSlotRefused := by
  refine ⟨fun s d desc m hslot => ⟨?xfer, ?complete, fun heng cpol count tx => ?shiftWord⟩,
    fun s d m hmis hready => ?ready⟩
  case xfer =>
    show execXfer d desc s = _
    unfold execXfer
    rw [hslot]
    rfl
  case complete =>
    show execComplete d m s = _
    unfold execComplete
    rw [hslot]
    rfl
  case shiftWord => exact execShiftWord_noSuchSlot heng hslot cpol count tx
  case ready =>
    obtain ⟨r, hr, hslot⟩ := slotReady_of_not_ready hready
    have hoperands : submitOperands d m s = .error r := submitOperands_of_slot hslot
    refine ⟨r, hr, ?_, ?_, ?_, ?_, execSubmitAtomic_of_refused hmis ?_⟩
    · exact congrArg (guarded · (csAssert d s)) hslot
    · exact congrArg (guarded · (csDeassert d s)) hslot
    · show outcome (processMsg d m s.heldCs s) = _
      unfold processMsg
      rw [hslot]
      rfl
    · show execSubmit d m s = _
      unfold execSubmit
      rw [hmis, hoperands]
      rfl
    · unfold admission
      rw [hoperands]

end Sys2Proof.Machine
end

section
/-! SUPPORT. GPIO_SET, GPIO_GET, GPIO_DIR and DELAY on legal operands: what they answer, line by line, and what they
leave alone (spec/40_gpio_lines.md R90, R92, R94, R96). -/

namespace Sys2Proof.Machine

/-! ### GPIO_SET (R90) -/

theorem execGpioSet_of_legal {high low : Word} {s : State} (hapart : high &&& low = 0)
    (hown : ownLines s.cfg (high ||| low) = true) : execGpioSet high low s = .next (lineSet high low s) := by
  unfold execGpioSet
  rw [if_neg (not_not.2 hapart), if_pos hown]

/-- No line is in both of two disjoint masks. -/
theorem getLsbD_of_disjoint {high low : Word} (hapart : high &&& low = 0) {i : Nat} (hh : high.getLsbD i = true) :
    low.getLsbD i = false := by
  have hbit := congrArg (fun w => w.getLsbD i) hapart
  simpa only [BitVec.getLsbD_and, hh, Bool.true_and, BitVec.ofNat_eq_ofNat, BitVec.getLsbD_zero] using hbit

/-- The latch register after a GPIO_SET of disjoint masks, line by line. -/
theorem getLsbD_maskOut_of_disjoint {high low : Word} (hapart : high &&& low = 0) (out : Word) {i : Nat} (hi : i < 32) :
    (maskOut high low out).getLsbD i =
      if high.getLsbD i then true else if low.getLsbD i then false else out.getLsbD i := by
  cases hh : high.getLsbD i
  · cases hl : low.getLsbD i
    · exact getLsbD_maskOut high low out i hi hh hl
    · unfold maskOut
      rw [BitVec.getLsbD_and, BitVec.getLsbD_not, hl]
      simp
  · have hl := getLsbD_of_disjoint hapart hh
    unfold maskOut
    rw [BitVec.getLsbD_and, BitVec.getLsbD_or, BitVec.getLsbD_not, hh, hl]
    simp [hi]

/-- Settles O7: legal masks pass both `require` lines, and disjoint ones do not undo each other in the latch. -/
theorem gpioSetDrivesMasks : Obligations.GpioSetDrivesMasks := by
  intro s high low hapart hown
  refine ⟨_, execGpioSet_of_legal hapart hown, ?lines, ?event, ?frame⟩
  all_goals rw [lineSet_maskOut]
  case lines => exact fun n hn => getLsbD_maskOut_of_disjoint hapart s.gpioOut hn

/-! ### GPIO_GET (R92) -/

/-- Every line at or above NLINES reads 0. -/
theorem getLsbD_lineAnswer_of_ge {s : State} {n : Nat} (hge : s.cfg.nlines ≤ n) (hn : n < 32) :
    s.lineAnswer.getLsbD n = false := by
  unfold State.lineAnswer
  rw [BitVec.getLsbD_and, getLsbD_lineMask (by omega), decide_eq_false (by omega), Bool.and_false]

/-- A line below NLINES reads the script's next answer. -/
theorem getLsbD_lineAnswer_of_script {s : State} {w : Word} {rest : List Word} (hscript : s.lineScript = w :: rest)
    (hlines : s.cfg.nlines ≤ 32) {n : Nat} (hn : n < s.cfg.nlines) : s.lineAnswer.getLsbD n = w.getLsbD n := by
  unfold State.lineAnswer
  rw [hscript, BitVec.getLsbD_and, getLsbD_lineMask hlines, decide_eq_true hn, Bool.and_true]

/-- Settles O9: the result is the line answer of the state before, which is cut to the own lines. -/
theorem gpioGetSamplesLines : Obligations.GpioGetSamplesLines := by
  intro s
  refine ⟨{ (lineGet s).2 with ret := s.lineAnswer }, rfl, fun n hge hn => getLsbD_lineAnswer_of_ge hge hn,
    fun w rest hscript hlines => ⟨?script, fun n hn => getLsbD_lineAnswer_of_script hscript hlines hn⟩,
    rfl, rfl, rfl, rfl⟩
  case script => exact congrArg List.tail hscript

/-! ### GPIO_DIR (R94) -/

theorem execGpioDir_of_legal {direction : BitVec 2} {dir : LineDir} {mask : Word} {s : State}
    (hdir : dirOperand direction = some dir) (hown : ownLines s.cfg mask = true) :
    execGpioDir direction mask s = .next (lineDir mask dir s) := by
  unfold execGpioDir
  rw [hdir]
  exact if_pos hown

@[simp] theorem lineDir_cfg (mask : Word) (dir : LineDir) (s : State) : (lineDir mask dir s).cfg = s.cfg := by
  cases dir <;> rfl

@[simp] theorem lineDir_gpioOut (mask : Word) (dir : LineDir) (s : State) :
    (lineDir mask dir s).gpioOut = s.gpioOut := by
  cases dir <;> rfl

@[simp] theorem lineDir_trace (mask : Word) (dir : LineDir) (s : State) :
    (lineDir mask dir s).trace = s.trace ++ [.lineDir mask dir] := by
  cases dir <;> rfl

/-- With the directions and the trace put back, the state after GPIO_DIR is the state before it. -/
theorem lineDir_frame (mask : Word) (dir : LineDir) (s : State) :
    { lineDir mask dir s with gpioPP := s.gpioPP, gpioOD := s.gpioOD, trace := s.trace } = s := by
  cases dir <;> rfl

/-- A second GPIO_DIR of the same operands adds its event only: joining the mask twice, or cutting it twice, is doing so
once. -/
theorem lineDir_lineDir (mask : Word) (dir : LineDir) (s : State) :
    { lineDir mask dir (lineDir mask dir s) with trace := (lineDir mask dir s).trace } = lineDir mask dir s := by
  have hjoin (m : Word) : m ||| mask ||| mask = m ||| mask := by rw [BitVec.or_assoc, BitVec.or_self]
  have hcut (m : Word) : m &&& ~~~mask &&& ~~~mask = m &&& ~~~mask := by rw [BitVec.and_assoc, BitVec.and_self]
  cases dir <;> simp only [lineDir, emit, hjoin, hcut]

/-- What a pin drives depends on its line's direction and latch only (R90 *Pins*). -/
theorem pinDrive_congr {s t : State} {n : Nat} (hdir : t.dirOf n = s.dirOf n) (hout : t.gpioOut = s.gpioOut) :
    t.pinDrive n = s.pinDrive n := by
  unfold State.pinDrive
  rw [hdir, hout]

/-- Settles O10: the direction of each line decides what its pin drives, from the latch that GPIO_DIR keeps. -/
theorem gpioDirConfiguresLines : Obligations.GpioDirConfiguresLines := by
  intro s direction dir mask hdir hown
  refine ⟨_, execGpioDir_of_legal hdir hown, fun n hn => dirOf_lineDir mask dir s hn, fun n hn => ?pins,
    lineDir_trace mask dir s, lineDir_frame mask dir s, _, execGpioDir_of_legal hdir ?ownAgain,
    lineDir_lineDir mask dir s⟩
  case pins =>
    have hdirOf := dirOf_lineDir mask dir s hn
    cases hm : mask.getLsbD n
    case false =>
      rw [hm] at hdirOf
      exact pinDrive_congr hdirOf (lineDir_gpioOut mask dir s)
    case true =>
      rw [hm] at hdirOf
      unfold State.pinDrive
      rw [hdirOf, lineDir_gpioOut]
      cases dir <;> rfl
  case ownAgain => rw [lineDir_cfg]; exact hown

/-! ### DELAY (R96) -/

/-- Settles O11: the one event of a wait that is not 0, by the closed form of `waitNs`. -/
theorem delayAppendsLowerBound : Obligations.DelayAppendsLowerBound := by
  intro s ns
  show Host.Outcome.next (waitNs ns s) = _
  rw [waitNs_eq]
  by_cases hns : ns = 0
  · rw [if_pos hns, if_pos hns, List.append_nil]
  · rw [if_neg hns, if_neg hns]

end Sys2Proof.Machine
end

section
/-! SUPPORT. SHIFT_BYTE in either clock phase (spec/41_bit_engine.md R101 to R104): its bit in closed form, the byte
received, the lines after it, and the statements about it. -/

namespace Sys2Proof.Machine

/-! ### One bit of a byte (R102, R103) -/

/-- The bit of SHIFT_BYTE in the phase `cpha`. -/
def byteBit (cpha w cpol : Bool) : Bool → State → State := if cpha then bitPhase1 w cpol else bitPhase0 w cpol

theorem bitStep_byteBit (cpha w cpol : Bool) (c : Config) (ns : Word) :
    BitStep (byteBit cpha w cpol) w (bitEvents cpha c ns w cpol) c ns := by
  cases cpha
  · exact bitStep_phase0 w cpol c ns
  · exact bitStep_phase1 w cpol c ns

/-- A bit puts SCK at its idle level and the bit on MOSI, and no other line elsewhere. -/
theorem getLsbD_byteBit (cpha w cpol b : Bool) (s : State) {i : Nat} (hi : i < 32) :
    (byteBit cpha w cpol b s).gpioOut.getLsbD i =
      if i = s.cfg.sck then cpol else if i = s.cfg.mosi then b else s.gpioOut.getLsbD i := by
  cases cpha
  · show (bitPhase0 w cpol b s).gpioOut.getLsbD i = _
    rw [bitPhase0_eq]
    simp only [getLsbD_lineOut _ _ _ _ hi]
  · show (bitPhase1 w cpol b s).gpioOut.getLsbD i = _
    rw [bitPhase1_eq]
    simp only [getLsbD_lineOut _ _ _ _ hi]
    split <;> rfl

/-- A bit leaves SCK idle and the bit on MOSI. -/
theorem byteBit_exit {c : Config} (hc : c.wf = true) (cpha w cpol b : Bool) (s : State) (hs : s.cfg = c) :
    (byteBit cpha w cpol b s).gpioOut.getLsbD c.sck = cpol ∧ (byteBit cpha w cpol b s).gpioOut.getLsbD c.mosi = b := by
  obtain ⟨hsck, hmosi, -, hne, -⟩ := Config.wf_bus hc
  subst hs
  rw [getLsbD_byteBit _ _ _ _ _ hsck, getLsbD_byteBit _ _ _ _ _ hmosi, if_pos rfl, if_neg hne.symm, if_pos rfl]
  exact ⟨rfl, rfl⟩

/-! ### SHIFT_BYTE on the loop of bits (R102 to R104) -/

/-- What SHIFT_BYTE loads before its first bit. -/
def byteLoaded (tx : Byte) (s : State) : State := loadUnit ((s.srTx &&& 0xFFFFFF00) ||| tx.setWidth 32) 8 s

theorem shiftByte_eq (cpha cpol w : Bool) (tx : Byte) (s : State) :
    (shiftByte cpha cpol w tx s).2 = endUnit (shiftBits (byteBit cpha w cpol) 8 (byteLoaded tx s)) := rfl

theorem getLsbD_byteLoaded_zero (tx : Byte) (s : State) : (byteLoaded tx s).srTx.getLsbD 0 = tx.getLsbD 0 := by
  show ((s.srTx &&& 0xFFFFFF00) ||| tx.setWidth 32).getLsbD 0 = _
  simp

/-- SHIFT_BYTE completes where its phase has a meaning (R103). -/
theorem execShiftByte_eq {cpha : Bool} {s : State} (hphase : cpha = true → s.cfg.cpha1Supported = true)
    (cpol w : Bool) (tx : Byte) : execShiftByte cpha cpol w tx s =
      .next { (shiftByte cpha cpol w tx s).2 with ret := (shiftByte cpha cpol w tx s).1.setWidth 32 } := by
  unfold execShiftByte
  rw [phaseOk_ok.2 hphase]

/-! ### The byte received (R101) -/

/-- The first answer is the highest bit of the byte received. -/
theorem getLsbD_byteOf (c : Config) {ms : List Word} (hms : ms.length = 8) {j : Nat} (hj : j < 8) :
    (byteOf c.miso ms).getLsbD (7 - j) = (ms.getD j 0).getLsbD c.miso := by
  have hbit := getLsbD_received c (hms.symm ▸ hj) (hms.symm ▸ (by decide))
  rw [hms] at hbit
  rw [byteOf_eq_foldl, List.take_of_length_le hms.le, BitVec.getLsbD_setWidth, decide_eq_true (by omega), Bool.true_and]
  exact hbit

/-- In either phase SHIFT_BYTE has the events of its phase, and returns what it sampled. -/
theorem exec_shiftByte_onWire {cpha : Bool} {s : State} (hphase : cpha = true → s.cfg.cpha1Supported = true)
    (cpol w : Bool) (tx : Byte) : ∃ t, exec (.shiftByte cpha cpol w tx) s = .next t ∧
      t.trace = s.trace ++
        unitEvents (bitEvents cpha s.cfg s.speed.softDelayNs w cpol) (tx.setWidth 32) 8 (s.samples 8) ∧
      (∀ j < 8, t.ret.getLsbD (7 - j) = (w && ((s.samples 8).getD j 0).getLsbD s.cfg.miso)) ∧
      t.ret.toNat < 256 ∧
      t.lineScript = if w then s.lineScript.drop 8 else s.lineScript := by
  obtain ⟨htrace, hscript, -, hret⟩ := shiftByte_spec cpha cpol w tx s
  refine ⟨_, execShiftByte_eq hphase cpol w tx, htrace, fun j hj => ?received, ?bound, hscript⟩
  case received =>
    rw [BitVec.getLsbD_setWidth, decide_eq_true (by omega), Bool.true_and, hret]
    cases w
    · exact BitVec.getLsbD_zero
    · exact getLsbD_byteOf s.cfg (length_samples 8 s) hj
  case bound =>
    rw [BitVec.toNat_setWidth_of_le (by decide)]
    exact (shiftByte cpha cpol w tx s).1.isLt

/-- Settles O12: phase 0 needs no support from the engine. -/
theorem shiftByteClockPhase0 : Obligations.ShiftByteClockPhase0 := fun _ cpol wantRx tx =>
  exec_shiftByte_onWire (cpha := false) (fun h => by cases h) cpol wantRx tx

/-- Settles O13: phase 1 where the engine supports it. -/
theorem shiftByteClockPhase1 : Obligations.ShiftByteClockPhase1 := fun _ cpol wantRx tx hsupported =>
  exec_shiftByte_onWire (cpha := true) (fun _ => hsupported) cpol wantRx tx

/-! ### The exit levels and the frame (R104) -/

/-- The bits of a byte drive no line but SCK and MOSI. -/
theorem getLsbD_shiftBits_byteBit (cpha w cpol : Bool) {c : Config} {i : Nat} (hi : i < 32) (hsck : i ≠ c.sck)
    (hmosi : i ≠ c.mosi) (k : Nat) (s : State) (hs : s.cfg = c) :
    (shiftBits (byteBit cpha w cpol) k s).gpioOut.getLsbD i = s.gpioOut.getLsbD i := by
  have hstep := bitStep_byteBit cpha w cpol c s.speed.softDelayNs
  refine (shiftBits_keeps (P := fun u => u.cfg = c ∧ u.gpioOut.getLsbD i = s.gpioOut.getLsbD i)
    (fun b u hu => ?_) k s ⟨hs, rfl⟩).2
  obtain ⟨hc, hbit⟩ := hu
  refine ⟨(hstep.cfg b u).trans hc, ?_⟩
  rw [getLsbD_byteBit cpha w cpol b u hi, hc, if_neg hsck, if_neg hmosi, hbit]

/-- Settles O14: the last bit says SCK and MOSI, every bit keeps the other lines, and the loop counts BITCNT down from
8. -/
theorem shiftByteExitAndFrame : Obligations.ShiftByteExitAndFrame := by
  intro s t cpha cpol w tx hwf h
  obtain ⟨ret, rfl⟩ := execShiftByte_next h
  have hsame := sameUnit_shiftByte cpha cpol w tx s
  obtain ⟨-, -, hctrl, -⟩ := shiftByte_spec cpha cpol w tx s
  have hframe := hsame.frame ret
  rw [← hctrl] at hframe
  rw [shiftByte_eq] at hsame hframe ⊢
  have hstep := bitStep_byteBit cpha w cpol s.cfg s.speed.softDelayNs
  have hunit := shiftBits_unit hstep 8 (byteLoaded tx s) rfl rfl
  obtain ⟨hexitSck, hexitMosi⟩ :=
    shiftBits_exit hstep.cfg hstep.srTx (byteBit_exit hwf cpha w cpol) 7 (byteLoaded tx s) rfl
  refine ⟨hexitSck, hexitMosi.trans (getLsbD_byteLoaded_zero tx s), fun n hn hnsck hnmosi => ?others, ?counted,
    ?position, hframe⟩
  case others => exact getLsbD_shiftBits_byteBit cpha w cpol hn hnsck hnmosi 8 (byteLoaded tx s) rfl
  case counted => exact hunit.bitCnt.trans (BitVec.sub_self 8)
  case position => exact congrArg₂ (fun xi bi => Pos.mk xi bi 0) hsame.xi hsame.bi

end Sys2Proof.Machine
end

section
/-! SUPPORT. XFER on every legal descriptor (spec/41_bit_engine.md R110 to R112): a Transfer of nothing, the fields and
the memory any Transfer leaves alone, and the bytes compared in verify mode. -/

namespace Sys2Proof.Machine

variable {d : Slot} {t : Transfer} {s : State}

/-! ### A Transfer of nothing (R110) -/

/-- A Transfer of length 0 clocks nothing. -/
theorem xfer_of_len_zero (d : Slot) (s : State) (hlen : t.len = 0) : xfer d t s = (0, setBi 0 s) := by
  have hshort : ¬ fastOk d t s = true := fun h => by
    have hmin := ((fastOk_iff d t s).1 h).2.1
    rw [hlen] at hmin
    exact absurd hmin (by decide)
  unfold xfer bytePart fastPart
  rw [if_neg hshort, hlen]
  rfl

/-- Settles O17: neither loop has a byte to clock. -/
theorem xferOfNothing : Obligations.XferOfNothing := by
  intro s d desc hruns hlen
  rw [exec_xfer_eq hruns, xfer_of_len_zero d s hlen]
  rfl

/-! ### The fields a Transfer leaves alone (R110) -/

/-- With memory, the engine's own fields and the result put back, the state after a Transfer is the state before it. -/
theorem SameTransfer.frame {s t : State} (h : SameTransfer s t) (ret : Word) :
    { { t with ret := ret } with
      mem := s.mem, gpioOut := s.gpioOut, srTx := s.srTx, srRx := s.srRx, hwCtrl := s.hwCtrl, bitCnt := s.bitCnt,
      pos := s.pos, trace := s.trace, lineScript := s.lineScript, draws := s.draws, ret := s.ret } = s := by
  simp only [h.cfg, h.raced, h.agenda, h.heldCs, h.inflight, h.queue, h.busy, h.worker, h.caller, h.answers, h.seq,
    h.devs, h.arg0, h.result, h.compIe, h.comp, h.busData, h.misconfigured, h.gpioPP, h.gpioOD, h.latch, h.speed]

/-- Settles O18: the count is bounded on both loops, and is `len` where nothing ends them early; the events store inside
the rx buffer only. -/
theorem xferCompletesWithinRx : Obligations.XferCompletesWithinRx := by
  intro s d desc hruns
  have hcompletes := exec_xfer_eq hruns
  obtain ⟨-, -, -, hok, -⟩ := hruns
  exact ⟨_, hcompletes, xfer_count_le d _ s, fun hv hf => (clocked_xfer hok (.inr hf)).2 hv,
    fun _ hout => read_xfer hok hout, (sameTransfer_xfer d _ s).frame _⟩

/-! ### Verify mode (R111) -/

/-- In verify mode every byte goes through the byte loop (R107). -/
theorem wordBytes_of_verify (hv : t.verify = true) (s : State) (d : Slot) : wordBytes s d t = 0 :=
  if_neg fun h => by
    obtain ⟨-, -, -, -, -, -, hnv, -⟩ := h
    rw [hv] at hnv
    cases hnv

theorem xfer_of_verify (hv : t.verify = true) (d : Slot) (s : State) :
    xfer d t s = (BitVec.ofNat 32 (byteLoop t t.len.toNat 0 s).n, setBi 0 (byteLoop t t.len.toNat 0 s).state) := by
  have hslow : ¬ fastOk d t s = true := fun h => by rw [fastOk_verify h] at hv; cases hv
  unfold xfer bytePart fastPart
  rw [if_neg hslow]
  rfl

/-- In verify mode a byte is compared and not stored. -/
theorem mem_afterByte_of_verify (hv : t.verify = true) (n : Nat) (s : State) : (afterByte t n s).mem = s.mem := by
  unfold afterByte
  rw [if_pos hv]
  exact (byteUnit_spec t n s).1

/-- The byte the slave answers is the one expected at its place of the rx buffer. -/
def expectedAt (t : Transfer) (s : State) (k : Nat) : Prop :=
  s.slaveByte k = s.memByte (t.rxPtr + BitVec.ofNat 32 k)

/-- While the script lasts and no byte is raced, byte `n` does not end a verify Transfer exactly when it is the one
expected. -/
theorem Clocked.byteMatches_iff {w n : Nat} {u : State} (h : Clocked d t w n s u) (hv : t.verify = true)
    (hrx : t.rxPtr ≠ 0) (hraced : s.raced = []) (hmem : u.mem = s.mem) (hn : 8 * (n + 1) ≤ s.lineScript.length) :
    byteMatches t n u ↔ expectedAt t s n := by
  obtain ⟨hkept, -, -, ⟨v, hvc, hvs, hbyte⟩, -⟩ := byteUnit_spec t n u
  have hsc : v.lineScript = s.lineScript.drop (8 * n) := by rw [hvs, h.script, if_pos hrx]
  have hreceived : (byteUnit t n u).1 = s.slaveByte n := by
    rw [hbyte, if_pos hrx, h.same.cfg]
    exact slaveByte_eq (j := 0) (k := 8) (hvc.trans h.same.cfg) hsc (by omega) (by omega)
  have hexpected : (byteUnit t n u).2.byteAt (t.rxPtr + BitVec.ofNat 32 n) =
      s.memByte (t.rxPtr + BitVec.ofNat 32 n) := by
    rw [byteAt_eq_memByte ((sameTransfer_byteUnit t n u).raced.trans (h.same.raced.trans hraced))]
    exact memByte_congr (congrArg (·.read (t.rxPtr + BitVec.ofNat 32 n).toNat) (hkept.trans hmem))
  unfold byteMatches expectedAt
  rw [hreceived, hexpected]
  exact ⟨fun hm => hm hv, fun hm _ => hm⟩

/-- What a verify Transfer has done at `u` with the `k` bytes from byte `n` on, `got` its count: memory is that of the
start, the bytes before `got` are those expected, and it is short only at one that is not. -/
structure Verified (t : Transfer) (s : State) (n k got : Nat) (u : State) : Prop where
  mem : u.mem = s.mem
  count : got ≤ n + k
  matched : ∀ j, n ≤ j → j < got → expectedAt t s j
  mismatch : got < n + k → ¬ expectedAt t s got

/-- The byte loop of a verify Transfer stops at the first byte that is not the one expected. -/
theorem Clocked.verified {c : Config} {w : Nat} (hok : t.ok c = true) (hv : t.verify = true) (hraced : s.raced = [])
    (hscript : 8 * t.len.toNat ≤ s.lineScript.length) : ∀ (k n : Nat) (u : State),
    Clocked d t w n s u → w ≤ n → u.mem = s.mem → n + k ≤ t.len.toNat →
    Verified t s n k (Machine.byteLoop t k n u).n (Machine.byteLoop t k n u).state
  | 0, n, _, _, _, hmem, _ =>
    ⟨hmem, Nat.le_refl n, fun _ h1 h2 => absurd h2 (Nat.not_lt.2 h1), fun h => absurd h (Nat.lt_irrefl n)⟩
  | k + 1, n, u, h, hw, hmem, hn => by
    obtain ⟨hrx, htxFit, hrxFit⟩ := transfer_ok hok
    have hiff := h.byteMatches_iff hv (hrx hv) hraced hmem (by omega)
    have hkept : (afterByte t n u).mem = s.mem := (mem_afterByte_of_verify hv n u).trans hmem
    by_cases hm : byteMatches t n u
    · obtain ⟨hstays, hcount, hmatched, hmismatch⟩ := Clocked.verified hok hv hraced hscript k (n + 1) _
        (h.byte hw (by omega) htxFit hrxFit) (by omega) hkept (by omega)
      rw [byteLoop_of_matches hm]
      refine ⟨hstays, by omega, fun j h1 h2 => ?_, fun hlt => hmismatch (by omega)⟩
      rcases Nat.eq_or_lt_of_le h1 with rfl | h1
      · exact hiff.1 hm
      · exact hmatched j h1 h2
    · rw [(byteLoop_of_mismatch hm k).2]
      exact ⟨hkept, Nat.le_add_right _ _, fun _ h1 h2 => absurd h2 (Nat.not_lt.2 h1), fun _ he => hm (hiff.2 he)⟩

/-- The count of a verify XFER is the index of the first byte that is not the one expected, or `len`. -/
theorem verified_xfer {c : Config} (hok : t.ok c = true) (hv : t.verify = true) (hraced : s.raced = [])
    (hscript : 8 * t.len.toNat ≤ s.lineScript.length) :
    Verified t s 0 t.len.toNat (xfer d t s).1.toNat (xfer d t s).2 := by
  obtain ⟨hmem, hcount, hmatched, hmismatch⟩ := Clocked.verified hok hv hraced hscript t.len.toNat 0 s (.refl d t s)
    (Nat.le_refl 0) rfl (Nat.zero_add _).le
  have hlen := t.len.isLt
  have hgot : (xfer d t s).1.toNat = (byteLoop t t.len.toNat 0 s).n := by
    rw [xfer_of_verify hv, BitVec.toNat_ofNat]
    exact Nat.mod_eq_of_lt (by omega)
  rw [hgot, xfer_of_verify hv]
  exact ⟨hmem, hcount, hmatched, hmismatch⟩

/-- Settles O21: the loop stops at the first byte that is not the one expected; the levels, the delays, the answers used
up and HW_CTRL are those `Clocked` says of the bytes up to and with it. -/
theorem verifyStopsAtFirstMismatch : Obligations.VerifyStopsAtFirstMismatch := by
  refine ⟨fun s t d desc h hv _ hraced hscript => ?compared, fun s t d desc h hv hwf hraced => ?wire⟩
  case compared =>
    have hruns := xferRuns_of_next h
    have heq := (exec_xfer_eq hruns).symm.trans h
    obtain ⟨-, -, -, hok, -⟩ := hruns
    cases heq
    obtain ⟨hmem, hcount, hmatched, hmismatch⟩ := verified_xfer (d := d) hok hv hraced hscript
    rw [Nat.zero_add] at hcount hmismatch
    refine ⟨hmem, hcount, fun k hk => hmatched k (Nat.zero_le k) hk, fun hshort => ?_⟩
    have hne := hmismatch hshort
    rwa [expectedAt, BitVec.ofNat_toNat, BitVec.setWidth_eq] at hne
  case wire =>
    obtain ⟨v, hclocked, heq⟩ := clocked_of_next h (.inl hv)
    obtain ⟨-, -, -, hok, -⟩ := xferRuns_of_next h
    have hrx : (transferAt desc s).rxPtr ≠ 0 := (transfer_ok hok).1 hv
    have hcount : bytesClocked (transferAt desc s) t.ret = min (t.ret.toNat + 1) (transferAt desc s).len.toNat :=
      if_pos hv
    rw [hcount, wordBytes_of_verify hv] at hclocked
    obtain ⟨-, -, hclock, hdata, hdelays, hused, hctrl, -, -⟩ := hclocked
    rw [if_pos hrx] at hused
    rw [heq]
    exact ⟨hclock hwf, hdata hwf hraced (.inr (.inr (.inl hv))), hdelays, hused, hctrl⟩

end Sys2Proof.Machine
end

section
/-! SUPPORT. The speed calculator (spec/42_speed_calculator.md R121 to R123, R126, R127): the software delay as a saturating
subtraction, the divider as the answer of a search, and what SET_SPEED does with both. -/

namespace Sys2Proof.Machine

/-! ### The software delay (R123, R126, R127) -/

/-- R123, R125 c: the clamped delay is the saturating difference, and it fits in 32 bits. -/
theorem toNat_softDelay (c : Config) (hz : Word) :
    (softDelay c hz).toNat = halfPeriod hz - c.fixedOverheadNs.toNat := by
  have hbound : halfPeriod hz ≤ 1000000000 := Nat.div_le_self _ _
  unfold softDelay
  split
  next hclamped => exact (Nat.sub_eq_zero_of_le hclamped).symm
  next => rw [BitVec.toNat_ofNat]; exact Nat.mod_eq_of_lt (by omega)

theorem halfPeriod_antitone {hz1 hz2 : Word} (hpos : 1 ≤ hz1.toNat) (hle : hz1.toNat ≤ hz2.toNat) :
    halfPeriod hz2 ≤ halfPeriod hz1 :=
  Nat.div_le_div_left (by omega) (by omega)

/-- R126: a delay and a line write of at least the overhead last at least the half period, clamped or not. -/
theorem halfPeriod_le_softDelay_add {c : Config} {latency : Nat} (h : c.fixedOverheadNs.toNat ≤ latency) (hz : Word) :
    halfPeriod hz ≤ (softDelay c hz).toNat + latency := by
  rw [toNat_softDelay]
  omega

/-- Settles O25: two half periods are at least `2 * halfPeriod hz`, so the shortfall is the division's rounding. -/
theorem softPeriodWithinTwoNs : Obligations.SoftPeriodWithinTwoNs := by
  intro c hz latency hpos hlatency
  have hhalf := halfPeriod_le_softDelay_add hlatency hz
  refine ⟨?slack, fun hdvd => ?exact⟩
  case slack =>
    calc 1000000000
      _ < 2 * hz.toNat * (halfPeriod hz + 1) := Nat.lt_mul_div_succ _ (by omega)
      _ = hz.toNat * (2 * halfPeriod hz + 2) := by ring
      _ ≤ hz.toNat * (2 * ((softDelay c hz).toNat + latency) + 2) := Nat.mul_le_mul_left _ (by omega)
  case exact =>
    calc 1000000000
      _ = 2 * hz.toNat * halfPeriod hz := (Nat.mul_div_cancel' hdvd).symm
      _ = hz.toNat * (2 * halfPeriod hz) := by ring
      _ ≤ hz.toNat * (2 * ((softDelay c hz).toNat + latency)) := Nat.mul_le_mul_left _ (by omega)

/-! ### The divider (R122, R127) -/

/-- The answer R122 asks of a search over the dividers from `lo` up to and without `hi`. -/
def DividerAnswer (c : Config) (hz : Word) (lo hi : Nat) : Option (BitVec 16) → Prop
  | some d => lo ≤ d.toNat ∧ d.toNat < hi ∧ c.divFreq d ≤ hz.toNat ∧
      ∀ e : BitVec 16, lo ≤ e.toNat → e.toNat < d.toNat → hz.toNat < c.divFreq e
  | none => ∀ e : BitVec 16, lo ≤ e.toNat → e.toNat < hi → hz.toNat < c.divFreq e

/-- A divider that is too fast may be put in front of the search. -/
theorem DividerAnswer.cons {c : Config} {hz : Word} {lo hi : Nat} {r : Option (BitVec 16)}
    (hfast : hz.toNat < c.divFreq (BitVec.ofNat 16 lo)) (h : DividerAnswer c hz (lo + 1) hi r) :
    DividerAnswer c hz lo hi r := by
  have hfrom (e : BitVec 16) (hlo : lo ≤ e.toNat) : e = BitVec.ofNat 16 lo ∨ lo + 1 ≤ e.toNat := by
    rcases Nat.eq_or_lt_of_le hlo with rfl | hlt
    · exact .inl (by rw [BitVec.ofNat_toNat, BitVec.setWidth_eq])
    · exact .inr hlt
  cases r with
  | none =>
    intro e hlo hhi
    rcases hfrom e hlo with rfl | hlt
    · exact hfast
    · exact h e hlt hhi
  | some d =>
    obtain ⟨hlo, hhi, hslow, hfirst⟩ := h
    refine ⟨by omega, hhi, hslow, fun e hlo' hlt => ?_⟩
    rcases hfrom e hlo' with rfl | hlt'
    · exact hfast
    · exact hfirst e hlt' hlt

/-- A search has one answer. -/
theorem DividerAnswer.unique {c : Config} {hz : Word} {lo hi : Nat} :
    ∀ {r r' : Option (BitVec 16)}, DividerAnswer c hz lo hi r → DividerAnswer c hz lo hi r' → r = r'
  | none, none, _, _ => rfl
  | none, some _, hnone, ⟨hlo, hhi, hslow, _⟩ => absurd (hnone _ hlo hhi) (Nat.not_lt.2 hslow)
  | some _, none, ⟨hlo, hhi, hslow, _⟩, hnone => absurd (hnone _ hlo hhi) (Nat.not_lt.2 hslow)
  | some d, some d', ⟨hlo, _, hslow, hfirst⟩, ⟨hlo', _, hslow', hfirst'⟩ => by
    have hle : d.toNat ≤ d'.toNat := Nat.not_lt.1 fun hlt => absurd (hfirst d' hlo' hlt) (Nat.not_lt.2 hslow')
    have hge : d'.toNat ≤ d.toNat := Nat.not_lt.1 fun hlt => absurd (hfirst' d hlo hlt) (Nat.not_lt.2 hslow)
    rw [BitVec.eq_of_toNat_eq (Nat.le_antisymm hle hge)]

/-- With a faster request the answer is still found, and is no larger (R127). -/
theorem DividerAnswer.mono {c : Config} {hz1 hz2 : Word} {lo hi : Nat} {d1 : BitVec 16} {r : Option (BitVec 16)}
    (hle : hz1.toNat ≤ hz2.toNat) (h1 : DividerAnswer c hz1 lo hi (some d1)) (h2 : DividerAnswer c hz2 lo hi r) :
    ∃ d2, r = some d2 ∧ d2.toNat ≤ d1.toNat := by
  obtain ⟨hlo, hhi, hslow, -⟩ := h1
  have hslow2 : ¬ hz2.toNat < c.divFreq d1 := Nat.not_lt.2 (hslow.trans hle)
  cases r with
  | none => exact absurd (h2 d1 hlo hhi) hslow2
  | some d2 =>
    obtain ⟨-, -, -, hfirst⟩ := h2
    exact ⟨d2, rfl, Nat.not_lt.1 fun hlt => hslow2 (hfirst d1 hlo hlt)⟩

/-- The start is a natural number, so that the empty search past divider `0xFFFF` does not begin again at 0. -/
theorem dividerAnswer_firstDivider (c : Config) (hz : Word) : ∀ n lo : Nat, lo + n ≤ 65536 →
    DividerAnswer c hz lo (lo + n) (firstDivider c hz n (BitVec.ofNat 16 lo))
  | 0, _, _ => fun _ hlo hhi => absurd hhi (Nat.not_lt.2 hlo)
  | n + 1, lo, hfit => by
    unfold firstDivider
    split
    next hslow =>
      have hlo : (BitVec.ofNat 16 lo).toNat = lo := Nat.mod_eq_of_lt (by omega)
      exact ⟨hlo.ge, by omega, hslow, fun e hle hlt => by omega⟩
    next hfast =>
      have htail := dividerAnswer_firstDivider c hz n (lo + 1) (by omega)
      rw [BitVec.ofNat_add, Nat.add_assoc, Nat.add_comm 1 n] at htail
      exact htail.cons (Nat.not_le.1 hfast)

theorem selectDivider_of_not_hasDivider {c : Config} (h : c.hasDivider = false) (hz : Word) :
    selectDivider c hz = none := by
  unfold selectDivider
  rw [h]
  rfl

/-- R122: with a divider unit, `selectDivider` is the answer of the search from `DIV_MIN`. -/
theorem dividerAnswer_selectDivider {c : Config} (h : c.hasDivider = true) (hz : Word) :
    DividerAnswer c hz c.divMin.toNat (c.divMin.toNat + (c.divMax.toNat - c.divMin.toNat + 1)) (selectDivider c hz) := by
  have hfit : c.divMin.toNat + (c.divMax.toNat - c.divMin.toNat + 1) ≤ 65536 := by omega
  have hsearch := dividerAnswer_firstDivider c hz _ _ hfit
  rw [BitVec.ofNat_toNat, BitVec.setWidth_eq] at hsearch
  unfold selectDivider
  rwa [if_pos h]

/-- The same over a range that is not empty, up to and with `DIV_MAX`. -/
theorem selectDivider_eq_iff {c : Config} (h : c.hasDivider = true) (hrange : c.divMin.toNat ≤ c.divMax.toNat) (hz : Word)
    (r : Option (BitVec 16)) :
    selectDivider c hz = r ↔ DividerAnswer c hz c.divMin.toNat (c.divMax.toNat + 1) r := by
  have hsearch := dividerAnswer_selectDivider h hz
  rw [← Nat.add_assoc, Nat.add_sub_cancel' hrange] at hsearch
  exact ⟨fun heq => heq ▸ hsearch, hsearch.unique⟩

/-- Settles O24: without a divider unit both sides are known, with one `selectDivider_eq_iff` gives each clause. -/
theorem dividerIsFirstNotExceeding : Obligations.DividerIsFirstNotExceeding := by
  intro c hz hrange
  cases hunit : c.hasDivider with
  | false => simp [selectDivider_of_not_hasDivider hunit]
  | true => simp [selectDivider_eq_iff hunit hrange, DividerAnswer]

/-- Settles O23: the half period never grows with the request, and the search's answer never does. -/
theorem speedMonotone : Obligations.SpeedMonotone := by
  refine fun c hz1 hz2 hlt => ⟨fun hpos => ?delay, fun d1 h1 => ?divider⟩
  case delay =>
    rw [toNat_softDelay, toNat_softDelay]
    exact Nat.sub_le_sub_right (halfPeriod_antitone hpos hlt.le) _
  case divider =>
    cases hunit : c.hasDivider with
    | false => cases (selectDivider_of_not_hasDivider hunit hz1).symm.trans h1
    | true =>
      exact (h1 ▸ dividerAnswer_selectDivider hunit hz1).mono hlt.le (dividerAnswer_selectDivider hunit hz2)

/-! ### SET_SPEED (R121) -/

theorem exec_setSpeed {hz : Word} (h : hz ≠ 0) (s : State) : exec (.setSpeed hz) s = .next (setSpeed hz s) :=
  outcome_eq_next.2 (if_neg h)

/-- Settles O22: the next state is `setSpeed hz s`, whose speed state is `speedFor` of the request. -/
theorem setSpeedEffect : Obligations.SetSpeedEffect :=
  fun s hz h => ⟨setSpeed hz s, exec_setSpeed h s, rfl, toNat_softDelay s.cfg hz, rfl, rfl⟩

end Sys2Proof.Machine
end

section
/-! SUPPORT. Where CS_ASSERT and CS_DEASSERT put every line (spec/43_cs_sequencer.md R136, R137), and the statements about
the two operations. -/

namespace Sys2Proof.Machine

/-! ### The hooks, line by line -/

theorem getLsbD_setupOut {p : SlotConfig} {i : Nat} (hi : i < 32) (hhigh : p.auxHigh.getLsbD i = false)
    (hlow : p.auxLow.getLsbD i = false) (out : Word) : (setupOut p out).getLsbD i = out.getLsbD i := by
  unfold setupOut
  split
  · rfl
  · exact getLsbD_maskOut _ _ _ i hi hhigh hlow

theorem getLsbD_teardownOut {p : SlotConfig} {i : Nat} (hi : i < 32) (hhigh : p.auxHigh.getLsbD i = false)
    (hlow : p.auxLow.getLsbD i = false) (hstrobe : p.strobe.getLsbD i = false) (out : Word) :
    (teardownOut p out).getLsbD i = out.getLsbD i := by
  have hzero : (0 : Word).getLsbD i = false := BitVec.getLsbD_zero
  have hundone : (if p.auxHigh ||| p.auxLow = 0 then out else maskOut p.auxLow p.auxHigh out).getLsbD i =
      out.getLsbD i := by
    split
    · rfl
    · exact getLsbD_maskOut _ _ _ i hi hlow hhigh
  unfold teardownOut
  simp only
  split
  · exact hundone
  · exact (getLsbD_maskOut _ _ _ i hi hzero hstrobe).trans ((getLsbD_maskOut _ _ _ i hi hstrobe hzero).trans hundone)

/-! ### Selecting and deselecting, line by line -/

section
variable {s : State} {d : Slot} {i : Nat}

/-- CS_ASSERT puts the select and SCK at the device's levels and leaves every line alone that no hook of the setup names. -/
theorem getLsbD_csAssert (hi : i < 32) (hhigh : (s.cfg.slot d).auxHigh.getLsbD i = false)
    (hlow : (s.cfg.slot d).auxLow.getLsbD i = false) :
    (csAssert d s).gpioOut.getLsbD i = if i = (s.cfg.slot d).cs then (s.dev d).csHigh
      else if i = s.cfg.sck then (s.dev d).cpol else s.gpioOut.getLsbD i := by
  rw [csAssert_eq]
  simp only [getLsbD_setupOut hi hhigh hlow, getLsbD_lineOut _ _ _ _ hi]

/-- CS_DEASSERT puts the select at the device's inactive level and leaves every line alone that no hook names. -/
theorem getLsbD_csDeassert (hi : i < 32) (hhigh : (s.cfg.slot d).auxHigh.getLsbD i = false)
    (hlow : (s.cfg.slot d).auxLow.getLsbD i = false) (hstrobe : (s.cfg.slot d).strobe.getLsbD i = false) :
    (csDeassert d s).gpioOut.getLsbD i =
      if i = (s.cfg.slot d).cs then !(s.dev d).csHigh else s.gpioOut.getLsbD i := by
  rw [csDeassert_eq]
  simp only [getLsbD_teardownOut hi hhigh hlow hstrobe, getLsbD_lineOut _ _ _ _ hi]

/-- A select after what leaves the platform and the device table alone: same line, same active level. -/
theorem csActive_of_sameControl {t : State} (hc : SameControl s t) (e : Slot) :
    t.csActive e = (t.gpioOut.getLsbD (s.cfg.slot e).cs == (s.dev e).csHigh) := by
  unfold State.csActive
  rw [hc.cfg, hc.dev]

end

/-- The lines of the bus are in no hook of an existing slot. -/
theorem getLsbD_hooks_bus {c : Config} (hwf : c.wf = true) {d : Slot} (hd : c.hasSlot d = true) {i : Nat}
    (hi : i = c.sck ∨ i = c.mosi) :
    (c.slot d).auxHigh.getLsbD i = false ∧ (c.slot d).auxLow.getLsbD i = false ∧
      (c.slot d).strobe.getLsbD i = false := by
  obtain ⟨hsck, hmosi, -⟩ := Config.wf_bus hwf
  refine (Config.wf_hooks hwf (Config.slot_mem hd)).2 i ?_ ?_
  · rcases hi with rfl | rfl <;> assumption
  · exact hi.imp_right .inl

/-- An operation on a registered slot answers. -/
theorem guarded_of_ready {s : State} {d : Slot} (h : s.ready d = true) (t : State) :
    guarded (slotReady d s) t = .next t := by
  rw [slotReady_ok.2 h]
  rfl

/-- Settles O26: the closed form of `csAssert` says the events and the frame; no hook names SCK or a select on a legal
platform. -/
theorem csAssertEffect : Obligations.CsAssertEffect := by
  intro s d hready
  have heq := csAssert_eq d s
  refine ⟨_, guarded_of_ready hready (csAssert d s), by rw [heq], by rw [heq], by rw [heq], fun hwf => ?_⟩
  have hslot := hasSlot_of_ready hready
  obtain ⟨hcs, hcsSck, -⟩ := Config.wf_cs hwf hslot
  refine ⟨?sck, ?select, fun n hn hsck hne hhigh hlow => ?other⟩
  case sck =>
    obtain ⟨hhigh, hlow, -⟩ := getLsbD_hooks_bus hwf hslot (.inl rfl)
    rw [getLsbD_csAssert (Config.wf_bus hwf).1 hhigh hlow, if_neg hcsSck.symm, if_pos rfl]
  case select =>
    obtain ⟨hhigh, hlow, -⟩ := getLsbD_hooks_cs hwf hslot d
    rw [csActive_of_sameControl (sameControl_csAssert d s), getLsbD_csAssert hcs hhigh hlow, if_pos rfl, beq_self_eq_true]
  case other => rw [getLsbD_csAssert hn hhigh hlow, if_neg hne, if_neg hsck]

/-- Settles O27: the closed form of `csDeassert` says the events and the frame; no hook names a bus line or a select on a
legal platform. -/
theorem csDeassertEffect : Obligations.CsDeassertEffect := by
  intro s d hready
  have heq := csDeassert_eq d s
  refine ⟨_, guarded_of_ready hready (csDeassert d s), by rw [heq], by rw [heq], fun hwf => ?_⟩
  have hslot := hasSlot_of_ready hready
  obtain ⟨hcs, hcsSck, hcsMosi, -⟩ := Config.wf_cs hwf hslot
  obtain ⟨hsck, hmosi, -⟩ := Config.wf_bus hwf
  refine ⟨?select, ?sck, ?mosi, fun n hn hne hhigh hlow hstrobe => ?other⟩
  case select =>
    obtain ⟨hhigh, hlow, hstrobe⟩ := getLsbD_hooks_cs hwf hslot d
    rw [csActive_of_sameControl (sameControl_csDeassert d s), getLsbD_csDeassert hcs hhigh hlow hstrobe, if_pos rfl]
    exact Bool.not_beq_self _
  case sck =>
    obtain ⟨hhigh, hlow, hstrobe⟩ := getLsbD_hooks_bus hwf hslot (.inl rfl)
    rw [getLsbD_csDeassert hsck hhigh hlow hstrobe, if_neg hcsSck.symm]
  case mosi =>
    obtain ⟨hhigh, hlow, hstrobe⟩ := getLsbD_hooks_bus hwf hslot (.inr rfl)
    rw [getLsbD_csDeassert hmosi hhigh hlow hstrobe, if_neg hcsMosi.symm]
  case other => rw [getLsbD_csDeassert hn hhigh hlow hstrobe, if_neg hne]

end Sys2Proof.Machine
end

section
/-! SUPPORT. XFER drives SCK and MOSI and no other line (spec/41_bit_engine.md R102 to R110). -/

namespace Sys2Proof.Machine

/-! ### Properties an XFER keeps -/

/-- What an XFER is made of keeps `P`: the units of both paths, the byte index, the reads and the stores. -/
structure KeptByXfer (P : State → Prop) : Prop where
  byte : ∀ {s : State} (cpha cpol w : Bool) (tx : Byte), P s → P (shiftByte cpha cpol w tx s).2
  word : ∀ {s : State} (cs : Slot) (cpol : Bool) (tx : Word), P s → P (shiftWord cs cpol 32 tx s).2
  index : ∀ {s : State} (n : Nat), P s → P (setBi n s)
  read : ∀ {s : State} (a : Word), P s → P (memRead1 a s).2
  write : ∀ {s : State} (a : Word) (b : Byte), P s → P (memWrite1 a b s)

section
variable {P : State → Prop} (h : KeptByXfer P) {s : State} (d : Slot) (t : Transfer)
include h

theorem KeptByXfer.afterByte (n : Nat) (hs : P s) : P (afterByte t n s) := by
  have htx : P (txByte t n (setBi n s)).2 := by
    unfold txByte
    split
    · exact h.index n hs
    · exact h.read _ (h.index n hs)
  have hunit : P (byteUnit t n s).2 := h.byte _ _ _ _ htx
  unfold Machine.afterByte
  split
  · exact h.read _ hunit
  · split
    · exact h.write _ _ hunit
    · exact hunit

theorem KeptByXfer.chunkUnit (n : Nat) (hs : P s) : P (chunkUnit d t n s).2 := by
  refine h.word _ _ _ ?_
  unfold txWord
  split
  · exact h.index n hs
  · exact h.read _ (h.read _ (h.read _ (h.read _ (h.index n hs))))

theorem KeptByXfer.rxWord (n : Nat) (r : Word) (hs : P s) : P (rxWord t n r s) := by
  unfold Machine.rxWord
  split
  · exact hs
  · exact h.write _ _ (h.write _ _ (h.write _ _ (h.write _ _ hs)))

theorem KeptByXfer.byteLoop : ∀ (k n : Nat) {s : State}, P s → P (byteLoop t k n s).state
  | 0, _, _, hs => hs
  | k + 1, n, s, hs => by
    by_cases hm : byteMatches t n s
    · rw [byteLoop_of_matches hm]
      exact KeptByXfer.byteLoop k (n + 1) (h.afterByte t n hs)
    · rw [(byteLoop_of_mismatch hm k).2]
      exact h.afterByte t n hs

theorem KeptByXfer.fastLoop : ∀ (k n : Nat) {s : State}, P s → P (fastLoop d t k n s).state
  | 0, _, _, hs => hs
  | k + 1, n, s, hs => by
    have hunit := h.chunkUnit d t n hs
    simp only [Machine.fastLoop]
    split
    · exact hunit
    · exact KeptByXfer.fastLoop k (n + 4) (h.rxWord t n _ hunit)

theorem KeptByXfer.xfer (hs : P s) : P (xfer d t s).2 := by
  have hfast : P (fastPart d t s).state := by
    unfold fastPart
    split
    · exact h.fastLoop d t _ _ hs
    · exact hs
  have hbytes : P (bytePart t (fastPart d t s)).state := by
    unfold bytePart
    split
    · exact hfast
    · exact h.byteLoop t _ _ hfast
  exact h.index 0 hbytes

end

/-! ### The lines of the bus -/

/-- On the platform `c`, line `i` is latched at `v`. -/
def LineAt (c : Config) (i : Nat) (v : Bool) (s : State) : Prop := s.cfg = c ∧ s.gpioOut.getLsbD i = v

section
variable {c : Config} {i : Nat} (hi : i < 32) (hsck : i ≠ c.sck) (hmosi : i ≠ c.mosi) (v : Bool)
include hi hsck hmosi

theorem lineAt_bitHw (cpol b : Bool) (s : State) (h : LineAt c i v s) : LineAt c i v (bitHw cpol b s) := by
  obtain ⟨rfl, hline⟩ := h
  refine ⟨(sameUnit_bitHw cpol b s).cfg, ?_⟩
  rw [bitHw_eq]
  simp only [getLsbD_lineOut _ _ _ _ hi, if_neg hsck, if_neg hmosi, hline]

theorem keptByXfer_lineAt : KeptByXfer (LineAt c i v) where
  byte {s} cpha cpol w tx h := by
    have hloaded : LineAt c i v (byteLoaded tx s) := h
    refine ⟨(sameUnit_shiftByte cpha cpol w tx s).cfg.trans h.1, ?_⟩
    rw [shiftByte_eq]
    exact (getLsbD_shiftBits_byteBit cpha w cpol hi hsck hmosi 8 _ hloaded.1).trans hloaded.2
  word {s} cs cpol tx h := by
    have hloaded : LineAt c i v (wordLoaded cs cpol 32 tx s) := h
    obtain ⟨hcfg, hline⟩ := shiftBits_keeps (lineAt_bitHw hi hsck hmosi v cpol) (32 : BitVec 6).toNat _ hloaded
    rw [shiftWord_eq]
    exact ⟨(endUnit_cfg _).trans hcfg, (congrArg (BitVec.getLsbD · i) (endUnit_gpioOut _)).trans hline⟩
  index _ h := h
  read _ h := h
  write _ _ h := h

/-- XFER leaves every line but SCK and MOSI as it was. -/
theorem getLsbD_xfer (d : Slot) (t : Transfer) {s : State} (hc : s.cfg = c) :
    (xfer d t s).2.gpioOut.getLsbD i = s.gpioOut.getLsbD i :=
  ((keptByXfer_lineAt hi hsck hmosi _).xfer d t ⟨hc, rfl⟩).2

end

end Sys2Proof.Machine
end

section
/-! SUPPORT. Which select is active while a Message runs (spec/43_cs_sequencer.md R136 to R143): the sequencer's own view of
the selected device is what the lines show. -/

namespace Sys2Proof.Machine

/-! ### The select the lines show -/

/-- Every registered slot's select is driven, and active exactly when the slot is the one `h` names (R135). -/
def Selects (h : Option Slot) (s : State) : Prop :=
  ∀ d : Slot, s.ready d = true →
    s.dirOf (s.cfg.slot d).cs = .pushPull ∧ (s.csActive d = true ↔ h = some d)

/-- Between moves it is the selected device. -/
theorem selectInv_iff {s : State} : SelectInv s ↔ Selects s.selected s := Iff.rfl

/-- The line of every existing slot keeps its latch, its direction and its device from `s` to `t`. -/
structure SameSelects (s t : State) : Prop where
  cfg : t.cfg = s.cfg
  devs : t.devs = s.devs
  gpioPP : t.gpioPP = s.gpioPP
  gpioOD : t.gpioOD = s.gpioOD
  lines : ∀ d, s.cfg.hasSlot d = true →
    t.gpioOut.getLsbD (s.cfg.slot d).cs = s.gpioOut.getLsbD (s.cfg.slot d).cs

theorem SameSelects.of_control {s t : State} (h : SameControl s t)
    (hlines : ∀ d, s.cfg.hasSlot d = true →
      t.gpioOut.getLsbD (s.cfg.slot d).cs = s.gpioOut.getLsbD (s.cfg.slot d).cs) : SameSelects s t :=
  ⟨h.cfg, h.devs, h.gpioPP, h.gpioOD, hlines⟩

theorem SameSelects.of_latch {s t : State} (h : SameControl s t) (hout : t.gpioOut = s.gpioOut) : SameSelects s t :=
  .of_control h fun d _ => congrArg (BitVec.getLsbD · (s.cfg.slot d).cs) hout

theorem Selects.of_same {h : Option Slot} {s t : State} (hs : Selects h s) (hsame : SameSelects s t) : Selects h t := by
  intro d hready
  have hdev : t.dev d = s.dev d := by unfold State.dev; simp only [hsame.devs]
  have hready' : s.ready d = true := by
    unfold State.ready at hready ⊢
    rwa [hsame.cfg, hdev] at hready
  have hactive : t.csActive d = s.csActive d := by
    unfold State.csActive
    rw [hsame.cfg, hdev, hsame.lines d (hasSlot_of_ready hready')]
  rw [hsame.cfg, dirOf_eq_of_masks hsame.gpioPP hsame.gpioOD, hactive]
  exact hs d hready'

/-! ### What leaves the selects alone -/

theorem sameSelects_xfer (d : Slot) (x : Transfer) {s : State} (hwf : s.cfg.wf = true) : SameSelects s (xfer d x s).2 := by
  refine .of_control (sameTransfer_xfer d x s).toSameControl fun e he => ?_
  obtain ⟨hcs, hsck, hmosi, -⟩ := Config.wf_cs hwf he
  exact getLsbD_xfer hcs hsck hmosi d x rfl

theorem sameSelects_readTransfer (a : Word) (s : State) : SameSelects s (readTransfer a s).2 :=
  .of_latch (sameControl_readTransfer a s) rfl

theorem sameSelects_applySpeed {hz : Word} {s t : State} (h : applySpeed hz s = .ok t) : SameSelects s t := by
  refine .of_latch (sameControl_applySpeed h) ?_
  unfold applySpeed at h
  split at h
  · cases h; rfl
  · rw [setSpeedChecked_ok h]; rfl

theorem sameControl_firstReads (m : Word) (s : State) : SameControl s (firstReads m s) :=
  (sameControl_memRead4 m s).trans (sameControl_memRead4 (m + 4) _)

theorem sameSelects_firstReads (m : Word) (s : State) : SameSelects s (firstReads m s) :=
  .of_latch (sameControl_firstReads m s) rfl

/-- The results of a Message go to memory, the trace and `seq` (R139). -/
theorem writeResults_eq (m : Word) (r : SeqResult) (s : State) :
    ∃ mem trace, writeResults m r s = { s with mem := mem, trace := trace, seq := r } := by
  unfold writeResults
  simp only [memWrite4_eq]
  exact ⟨_, _, rfl⟩

theorem sameSelects_writeResults (m : Word) (r : SeqResult) (s : State) : SameSelects s (writeResults m r s) := by
  obtain ⟨mem, trace, heq⟩ := writeResults_eq m r s
  rw [heq]
  exact ⟨rfl, rfl, rfl, rfl, fun _ _ => rfl⟩

/-! ### Selecting and deselecting (R136, R137) -/

section
variable {s : State} {d : Slot} (hwf : s.cfg.wf = true) (hd : s.cfg.hasSlot d = true)
include hwf hd

/-- With no select active, CS_ASSERT makes the device's the active one. -/
theorem selects_csAssert (hs : Selects none s) : Selects (some d) (csAssert d s) := by
  intro e hready
  have hc := sameControl_csAssert d s
  have hready' : s.ready e = true := (hc.ready e).symm.trans hready
  have he := hasSlot_of_ready hready'
  obtain ⟨hcs, hsck, -⟩ := Config.wf_cs hwf he
  obtain ⟨hhigh, hlow, -⟩ := getLsbD_hooks_cs hwf he d
  obtain ⟨hdir, hactive⟩ := hs e hready'
  refine ⟨by rw [hc.cfg, dirOf_eq_of_masks hc.gpioPP hc.gpioOD]; exact hdir, ?_⟩
  rw [csActive_of_sameControl hc, getLsbD_csAssert hcs hhigh hlow, Option.some_inj]
  by_cases hde : d = e
  · subst hde
    rw [if_pos rfl, beq_self_eq_true]
    exact iff_of_true rfl rfl
  · rw [if_neg fun heq => hde (Config.wf_cs_inj hwf he hd heq).symm, if_neg hsck]
    exact iff_of_false (fun h => nomatch hactive.1 h) hde

/-- With the device's select the only active one, CS_DEASSERT leaves none. -/
theorem selects_csDeassert (hs : Selects (some d) s) : Selects none (csDeassert d s) := by
  intro e hready
  have hc := sameControl_csDeassert d s
  have hready' : s.ready e = true := (hc.ready e).symm.trans hready
  have he := hasSlot_of_ready hready'
  obtain ⟨hhigh, hlow, hstrobe⟩ := getLsbD_hooks_cs hwf he d
  obtain ⟨hdir, hactive⟩ := hs e hready'
  refine ⟨by rw [hc.cfg, dirOf_eq_of_masks hc.gpioPP hc.gpioOD]; exact hdir, iff_of_false ?_ nofun⟩
  rw [csActive_of_sameControl hc, getLsbD_csDeassert (Config.wf_cs hwf he).1 hhigh hlow hstrobe]
  by_cases hde : d = e
  · subst hde
    rw [if_pos rfl, Bool.not_beq_self]
    exact Bool.false_ne_true
  · rw [if_neg fun heq => hde (Config.wf_cs_inj hwf he hd heq).symm]
    exact fun h => hde (Option.some_inj.1 (hactive.1 h))

end

/-- Releasing the active select leaves none. -/
theorem selects_releaseHeld {h : Option Slot} {s : State} (hwf : s.cfg.wf = true)
    (hd : ∀ e, h = some e → s.cfg.hasSlot e = true) (hs : Selects h s) : Selects none (releaseHeld h s) := by
  cases h with
  | none => exact hs
  | some e => exact selects_csDeassert hwf (hd e rfl) hs

/-! ### Messages (R139 to R143) -/

/-- The select a Message counts as asserted: its own device's, or none. -/
def ownSelect (d : Slot) (asserted : Bool) : Option Slot := if asserted then some d else none

/-- After a Transfer its device's select is the active one. -/
theorem selects_runTransfer {d : Slot} {a : Word} {asserted : Bool} {s : State} {t : Transfer} {got : Word} {s' : State}
    (hr : runTransfer d a asserted s = .ok (t, got, s')) (hwf : s.cfg.wf = true) (hd : s.cfg.hasSlot d = true)
    (hs : Selects (ownSelect d asserted) s) : Selects (some d) s' := by
  obtain ⟨selected, timed, -, -, -, hsel, htimed, hx⟩ := runTransfer_ok hr
  have hread := sameSelects_readTransfer a s
  have hselected : Selects (some d) selected ∧ selected.cfg = s.cfg := by
    rw [hsel]
    cases asserted with
    | true => exact ⟨hs.of_same hread, hread.cfg⟩
    | false =>
      exact ⟨selects_csAssert (hread.cfg.symm ▸ hwf) (hread.cfg.symm ▸ hd) (hs.of_same hread),
        (sameControl_csAssert d _).cfg.trans hread.cfg⟩
  have hspeed := sameSelects_applySpeed htimed
  have hwf' : timed.cfg.wf = true := by rw [hspeed.cfg, hselected.2]; exact hwf
  obtain rfl : s' = (xfer d t timed).2 := congrArg Prod.snd hx
  exact (hselected.1.of_same hspeed).of_same (sameSelects_xfer d t hwf')

/-- After the Transfers of a Message the active select is the one their result names. -/
theorem selects_runTransfers {d : Slot} {ptr : Word} :
    ∀ {left xi : Nat} {asserted : Bool} {actual : Word} {s : State} {r : SeqResult} {s' : State},
      runTransfers d ptr left xi asserted actual s = .ok (r, s') → s.cfg.wf = true → s.cfg.hasSlot d = true →
        Selects (ownSelect d asserted) s → Selects r.held s'
  | 0, _, _, _, s, r, s', h, _, _, hs => by
    simp only [runTransfers, Except.ok.injEq, Prod.mk.injEq] at h
    obtain ⟨rfl, rfl⟩ := h
    exact hs
  | left + 1, xi, asserted, actual, s, r, s', h, hwf, hd, hs => by
    simp only [runTransfers] at h
    split at h
    · cases h
    · rename_i t got u hu
      have hcfg : u.cfg = s.cfg := (sameControl_runTransfer hu).cfg
      have hone : Selects (some d) u := selects_runTransfer hu hwf hd hs
      have hreleased : Selects none (csDeassert d u) := selects_csDeassert (hcfg ▸ hwf) (hcfg ▸ hd) hone
      have hcfg' : (csDeassert d u).cfg = s.cfg := (sameControl_csDeassert d u).cfg.trans hcfg
      split at h
      · cases h; exact hreleased
      · split at h
        · exact selects_runTransfers h (hcfg' ▸ hwf) (hcfg' ▸ hd) hreleased
        · exact selects_runTransfers h (hcfg ▸ hwf) (hcfg ▸ hd) hone

theorem selects_runMessage {d : Slot} {ptr : Word} {cnt : Nat} {h : Option Slot} {s : State} {r : SeqResult} {s' : State}
    (hr : runMessage d ptr cnt h s = .ok (r, s')) (hwf : s.cfg.wf = true) (hd : s.cfg.hasSlot d = true)
    (hheld : ∀ e, h = some e → s.cfg.hasSlot e = true) (hs : Selects h s) : Selects r.held s' := by
  have hreleased := selects_releaseHeld hwf hheld hs
  have hcfg : (releaseHeld h s).cfg = s.cfg := (sameControl_releaseHeld h s).cfg
  unfold runMessage at hr
  split at hr
  · cases hr; exact hreleased
  · split at hr
    · cases hr
    · split at hr
      · rename_i hown
        exact selects_runTransfers hr hwf hd (show Selects (some d) s from hown ▸ hs)
      · exact selects_runTransfers hr (hcfg.symm ▸ hwf) (hcfg.symm ▸ hd) hreleased

/-- From the held select the lines show, PROCESS_MSG leaves them with the one its result names (R143). -/
theorem selects_processMsg {d : Slot} {m : Word} {h : Option Slot} {s t : State} (hp : processMsg d m h s = .ok t)
    (hwf : s.cfg.wf = true) (hheld : ∀ e, h = some e → s.ready e = true) (hs : Selects h s) : Selects t.seq.held t := by
  obtain ⟨r, u, hready, -, hr, rfl⟩ := processMsg_ok hp
  have hreads := sameSelects_firstReads m s
  have hslot : ∀ e, s.ready e = true → (firstReads m s).cfg.hasSlot e = true := fun e he =>
    hreads.cfg.symm ▸ hasSlot_of_ready he
  have hend : Selects r.held u := selects_runMessage (s := firstReads m s) hr (hreads.cfg.symm ▸ hwf)
    (hslot d (slotReady_ok.1 hready)) (fun e he => hslot e (hheld e he)) (hs.of_same hreads)
  show Selects r.held _
  exact hend.of_same (sameSelects_writeResults m r u)

end Sys2Proof.Machine
end

section
/-! SUPPORT. Every move of the host and of the worker keeps the select invariant (spec/43_cs_sequencer.md R135, R142;
spec/44_queue_dispatcher.md R155, R160 to R165; spec/70_reset_and_hazards.md R212, R230): one lemma for each operation a
host or the worker runs, then for each move. -/

namespace Sys2Proof.Machine

/-! ### The selected device (R17, R160, R164) -/

theorem selected_of_owes {s : State} {h : Option Slot} (hw : s.worker = .owes h) : s.selected = h := by
  unfold State.selected
  rw [hw]

theorem selected_of_processed {s : State} {r : SeqResult} (hw : s.worker = .atStart) (hc : s.caller = .processed r) :
    s.selected = r.held := by
  unfold State.selected
  rw [hw, hc]

theorem selected_of_serving {s : State} (hw : s.worker = .serving) (hc : s.caller = .idle) : s.selected = s.heldCs := by
  unfold State.selected
  rw [hw, hc]

theorem selected_of_idle {s : State} (hw : s.worker = .atStart) (hc : s.caller = .idle) : s.selected = s.heldCs := by
  unfold State.selected
  rw [hw, hc]

theorem selected_of_admitted {s : State} {hazard : Bool} (hw : s.worker = .atStart) (hc : s.caller = .admitted hazard) :
    s.selected = s.heldCs := by
  unfold State.selected
  rw [hw, hc]

/-- In an invariant state the selected device is registered. -/
theorem Inv.selected_ready {s : State} (h : Inv s) {d : Slot} (hd : s.selected = some d) : s.ready d = true := by
  cases hw : s.worker with
  | owes held => exact h.owedHeld d (hw.trans (congrArg _ ((selected_of_owes hw).symm.trans hd)))
  | serving =>
    have hidle := h.caller_idle (by rw [hw]; nofun)
    exact h.held d ((selected_of_serving hw hidle).symm.trans hd)
  | atStart =>
    cases hc : s.caller with
    | idle => exact h.held d ((selected_of_idle hw hc).symm.trans hd)
    | admitted hazard => exact h.held d ((selected_of_admitted hw hc).symm.trans hd)
    | processed r => exact h.callerHeld r d hc ((selected_of_processed hw hc).symm.trans hd)

/-- What leaves the lines of the selects and the selected device alone keeps the select invariant. -/
theorem SelectInv.of_same {s t : State} (h : SelectInv s) (hsame : SameSelects s t) (hsel : t.selected = s.selected) :
    SelectInv t := selectInv_iff.2 (hsel ▸ Selects.of_same h hsame)

/-! ### REGDEV (R155) -/

/-- A new device comes inactive and driven, and its line is no other slot's. -/
theorem selectInv_registerDevice {d : Slot} {mode : Byte} {hz : Word} {s : State} (h : Inv s) (hs : SelectInv s)
    (hslot : s.cfg.hasSlot d = true) (hnew : (s.dev d).valid = false) : SelectInv (registerDevice d mode hz s) := by
  have heq := registerDevice_eq d mode hz s
  have hcfg : (registerDevice d mode hz s).cfg = s.cfg := by rw [heq]
  have hout : (registerDevice d mode hz s).gpioOut = lineOut (s.cfg.slot d).cs (!mode.getLsbD 2) s.gpioOut := by rw [heq]
  have hsel : (registerDevice d mode hz s).selected = s.selected := by rw [heq]; rfl
  intro e hready
  have he : s.cfg.hasSlot e = true := hcfg ▸ hasSlot_of_ready hready
  have hcs := (Config.wf_cs h.platform he).1
  rw [hcfg, hsel, dirOf_registerDevice d mode hz s hcs]
  unfold State.csActive
  rw [hcfg, hout, getLsbD_lineOut _ _ _ _ hcs, dev_registerDevice]
  by_cases hde : e = d
  · subst hde
    have hunselected : s.selected ≠ some e := fun hd => by
      have hvalid := (Bool.and_eq_true_iff.1 (h.selected_ready hd)).2
      rw [hnew] at hvalid
      cases hvalid
    have hinactive : ((!mode.getLsbD 2) == mode.getLsbD 2) = false := Bool.not_beq_self _
    rw [if_pos rfl, if_pos rfl, if_pos rfl]
    exact ⟨rfl, iff_of_false (hinactive.symm ▸ Bool.false_ne_true) hunselected⟩
  · have hother : (s.cfg.slot d).cs ≠ (s.cfg.slot e).cs := fun hline =>
      hde (Config.wf_cs_inj h.platform he hslot hline.symm)
    have hready' : s.ready e = true := by
      have hvalid := (Bool.and_eq_true_iff.1 hready).2
      rw [dev_registerDevice, if_neg hde] at hvalid
      exact Bool.and_eq_true_iff.2 ⟨he, hvalid⟩
    rw [if_neg hother, if_neg hother.symm, if_neg hde]
    exact hs e hready'

/-! ### The worker (R160) -/

theorem selectInv_writeBack {s : State} (h : Inv s) (hs : SelectInv s) : SelectInv (writeBack s) := by
  rcases writeBack_eq s with ⟨held, hw, heq⟩ | ⟨-, heq⟩
  · have hidle : s.caller = .idle := h.caller_idle (by rw [hw]; nofun)
    rw [heq]
    refine hs.of_same ⟨rfl, rfl, rfl, rfl, fun _ _ => rfl⟩ ?_
    rw [selected_of_owes hw]
    exact selected_of_idle (s := { s with heldCs := held, inflight := none, worker := .atStart }) rfl hidle
  · rw [heq]; exact hs

theorem selectInv_lockRegion {s : State} (h : Inv s) (hs : SelectInv s) : SelectInv (lockRegion s) := by
  have hback := selectInv_writeBack h hs
  rcases lockRegion_cases s with ⟨-, heq⟩ | ⟨-, -, heq⟩ | ⟨e, rest, hi, -, heq⟩ <;> rw [heq]
  · exact hback
  · exact hback
  · obtain ⟨hstart, hidle⟩ := (inv_writeBack h).idle_of_inflight_none hi
    refine hback.of_same ⟨rfl, rfl, rfl, rfl, fun _ _ => rfl⟩ ?_
    rw [selected_of_idle hstart hidle]
    exact selected_of_serving rfl hidle

theorem sameSelects_completeMsg {m : Word} {s t : State} (h : completeMsg m s = .ok t) : SameSelects s t := by
  obtain ⟨r, u, -, -, rfl, -, rfl⟩ := completeMsg_ok h
  exact ⟨rfl, rfl, rfl, rfl, fun _ _ => rfl⟩

/-- The Message leaves the lines with the select it returns as held, which the worker then owes. -/
theorem selectInv_serve {e : Entry} {s t : State} (h : Inv s) (hs : SelectInv s) (hw : s.worker = .serving)
    (ht : serve e s = .ok t) : SelectInv t := by
  obtain ⟨u, v, hu, hv, rfl⟩ := serve_ok ht
  have hheld : Selects s.heldCs s := selected_of_serving hw (h.caller_idle (by rw [hw]; nofun)) ▸ selectInv_iff.1 hs
  have hend : Selects u.seq.held v := (selects_processMsg hu h.platform h.held hheld).of_same (sameSelects_completeMsg hv)
  exact hend

theorem selectInv_workerTurn {s t : State} (h : Inv s) (hs : SelectInv s) (hb : s.busy = true)
    (ht : workerTurn s = .ok t) : SelectInv t := by
  have hlock := selectInv_lockRegion h hs
  rcases serveCurrent_ok ht with ⟨e, hw, -, hserve⟩ | heq
  · exact selectInv_serve (inv_lockRegion h hb) hlock hw hserve
  · rw [heq]; exact hlock

theorem selectInv_execWorkerStep {s t : State} (h : Inv s) (hs : SelectInv s) (ht : execWorkerStep s = .next t) :
    SelectInv t := by
  rcases execWorkerStep_next ht with ⟨hb, hturn⟩ | ⟨-, rfl⟩
  · exact selectInv_workerTurn h hs hb hturn
  · exact hs

theorem selectInv_workerLock {s : State} (h : Inv s) (hs : SelectInv s) : SelectInv (workerLock s) := by
  unfold workerLock
  split
  · exact selectInv_lockRegion h hs
  · exact hs

/-! ### The atomic caller (R164, R165) -/

theorem selectInv_admission {d : Slot} {m : Word} {s t : State} (h : Inv s) (hs : SelectInv s)
    (ht : admission d m s = .ok t) : SelectInv t := by
  obtain ⟨-, -, hi, rfl⟩ := admission_ok.1 ht
  obtain ⟨hstart, hidle⟩ := h.idle_of_inflight_none hi
  refine hs.of_same ⟨rfl, rfl, rfl, rfl, fun _ _ => rfl⟩ ?_
  rw [selected_of_idle hstart hidle]
  exact selected_of_admitted hstart rfl

/-- The hazard case releases what is held and starts from no select, the other starts from the held one (R165). -/
theorem selectInv_processAtomic {hazard : Bool} {e : Entry} {s t : State} (h : Inv s) (hs : SelectInv s)
    (hc : s.caller = .admitted hazard) (ht : processAtomic hazard e s = .ok t) : SelectInv t := by
  obtain ⟨u, hu, rfl⟩ := processAtomic_ok ht
  have hstart : s.worker = .atStart := h.worker_atStart (by rw [hc]; nofun)
  have hheld : Selects s.heldCs s := selected_of_admitted hstart hc ▸ selectInv_iff.1 hs
  obtain ⟨hend, hworker⟩ : Selects u.seq.held u ∧ u.worker = .atStart := by
    cases hazard
    · exact ⟨selects_processMsg hu h.platform h.held hheld, (processMsg_control hu).worker.trans hstart⟩
    · have hp : processMsg e.dev e.msg none (releaseHeld s.heldCs s) = .ok u := hu
      have hrelease := sameControl_releaseHeld s.heldCs s
      have hnone := selects_releaseHeld h.platform (fun d hd => hasSlot_of_ready (h.held d hd)) hheld
      exact ⟨selects_processMsg hp (hrelease.cfg.symm ▸ h.platform) nofun hnone,
        (processMsg_control hp).worker.trans (hrelease.worker.trans hstart)⟩
  have hsel : State.selected { u with caller := .processed u.seq } = u.seq.held := selected_of_processed hworker rfl
  rw [selectInv_iff, hsel]
  exact hend

theorem selectInv_writeBackAtomic {r : SeqResult} {s : State} (h : Inv s) (hs : SelectInv s)
    (hc : s.caller = .processed r) : SelectInv (writeBackAtomic r s) := by
  have hstart : s.worker = .atStart := h.worker_atStart (by rw [hc]; nofun)
  obtain ⟨raced, heq⟩ := writeBackAtomic_eq r s
  rw [heq]
  refine hs.of_same ⟨rfl, rfl, rfl, rfl, fun _ _ => rfl⟩ ?_
  rw [selected_of_processed hstart hc]
  exact selected_of_idle hstart rfl

theorem selectInv_callerMove {s t : State} (h : Inv s) (hs : SelectInv s) (ht : callerMove s = .ok t) : SelectInv t := by
  rcases callerMove_ok ht with ⟨hazard, e, hc, -, hp⟩ | ⟨r, hc, rfl⟩ | rfl
  · exact selectInv_processAtomic h hs hc hp
  · exact selectInv_writeBackAtomic h hs hc
  · exact hs

theorem selectInv_writeAnswer {s : State} (hs : SelectInv s) (i : Nat) : SelectInv (writeAnswer i s) := by
  obtain ⟨result, answers, heq⟩ := writeAnswer_eq i s
  rw [heq]
  exact hs

theorem selectInv_runAtomic {d : Slot} {m : Word} {s t : State} (h : Inv s) (hs : SelectInv s)
    (ht : runAtomic d m s = .ok t) : SelectInv t := by
  obtain ⟨s1, s2, s3, h1, h2, h3, rfl⟩ := runAtomic_ok ht
  have hi1 := inv_admission h h1
  have hs1 := selectInv_admission h hs h1
  have hs2 := selectInv_callerMove hi1 hs1 h2
  exact selectInv_writeAnswer (selectInv_callerMove (inv_callerMove hi1 h2) hs2 h3) _

/-! ### The host commands (R66) -/

/-- The operations a host may name in CMD. -/
def hostCommand : Instr → Bool
  | .regdev .. => true
  | .submit .. => true
  | .submitAtomic .. => true
  | _ => false

/-- A header of the host's class names one of the three host commands (R66). -/
theorem hostCommand_of_decode {t : Triple} {i : Instr} (hhost : hostClass t.header = true) (h : decode t = .ok i) :
    hostCommand i = true := by
  rw [← encodeOfDecode t i h, hostClass_eq] at hhost
  cases i
  case regdev => rfl
  case submit => rfl
  case submitAtomic => rfl
  all_goals
    simp only [encode, opField_mkHeader] at hhost
    exact absurd hhost (by decide)

/-- Every host command keeps the select invariant. -/
theorem selectInv_exec {i : Instr} {s t : State} (hhost : hostCommand i = true) (h : Inv s) (hs : SelectInv s)
    (ht : exec i s = .next t) : SelectInv t := by
  cases i
  case regdev d bpw mode hz =>
    rcases execRegdev_next ht with ⟨e, rfl⟩ | ⟨-, hslot, hnew, -, rfl⟩
    · exact hs
    · exact selectInv_registerDevice h hs hslot hnew
  case submit d m =>
    rcases execSubmit_next ht with ⟨e, rfl⟩ | ⟨-, -, rfl⟩ <;> exact hs
  case submitAtomic d m =>
    rcases execSubmitAtomic_next ht with ⟨e, rfl⟩ | hrun
    · exact hs
    · exact selectInv_runAtomic h hs hrun
  all_goals cases hhost

/-! ### Reset (R210, R212) -/

theorem devs_construction (s : State) : (construction s).devs = s.devs := by
  unfold construction
  split
  · exact (sameTables_lineDir _ _ _).devs.trans ((sameTables_lineDir _ _ _).devs.trans (sameControl_lineSet _ _ s).devs)
  · rfl

/-- A reset leaves no device registered, so no select to speak of. -/
theorem selectInv_resetNow (s : State) : SelectInv (resetNow s) := by
  intro d hready
  have hdevs : (resetNow s).devs = (State.powerOn s.cfg).devs := devs_construction _
  have hblank : (resetNow s).dev d = Device.blank := by
    rw [← dev_powerOn s.cfg d]
    unfold State.dev
    simp only [hdevs]
  have hvalid := (Bool.and_eq_true_iff.1 hready).2
  rw [hblank] at hvalid
  cases hvalid

/-! ### Moves (R8, R22, R57, R65) -/

theorem selectInv_issue {tr : Triple} {s t : State} (hhost : hostClass tr.header = true) (h : Inv s) (hs : SelectInv s)
    (ht : issue tr s = .next t) : SelectInv t := by
  cases hdec : decode tr with
  | error e => unfold issue at ht; rw [hdec] at ht; cases ht
  | ok i =>
    rw [issue_of_decode hdec, if_pos hhost] at ht
    have harg : Inv { s with arg0 := tr.arg0 } := { h with }
    have hsel : SelectInv { s with arg0 := tr.arg0 } := hs
    exact selectInv_exec (hostCommand_of_decode hhost hdec) harg hsel ht

theorem selectInv_beginCommand {header arg0 : Word} {s t : State} (hhost : hostClass header = true) (h : Inv s)
    (hs : SelectInv s) (ht : beginCommand header arg0 s = .next t) : SelectInv t := by
  unfold beginCommand at ht
  split at ht
  · have harg : Inv { s with arg0 := arg0 } := { h with }
    have hsel : SelectInv { s with arg0 := arg0 } := hs
    rcases beginAtomic_next ht with ⟨e, rfl⟩ | hadm
    · exact hsel
    · exact selectInv_admission harg hsel hadm
  · exact selectInv_issue (tr := ⟨header, arg0, 0⟩) hhost h hs ht

theorem selectInv_writeCmd {w : Word} {s t : State} (h : Inv s) (hs : SelectInv s) (ht : writeCmd w s = .next t) :
    SelectInv t := by
  unfold writeCmd at ht
  split at ht
  · cases ht
  · rename_i i hdec
    unfold decodeCmd at hdec
    split at hdec
    · rename_i hhost
      exact selectInv_exec (hostCommand_of_decode (t := ⟨w, s.arg0, 0⟩) hhost hdec) h hs ht
    · cases hdec

theorem selectInv_writeReg {off v : Word} {width : Nat} {s t : State} (h : Inv s) (hs : SelectInv s)
    (ht : writeReg off width v s = .next t) : SelectInv t := by
  unfold writeReg at ht
  split at ht
  · cases ht
  · split at ht
    · exact selectInv_writeCmd h hs ht
    · split at ht
      · cases ht; exact hs
      · split at ht
        · cases ht; exact hs
        · split at ht
          · cases ht; exact hs
          · cases ht; exact hs

theorem selectInv_readReg {off : Word} {width : Nat} {s t : State} (hs : SelectInv s)
    (ht : readReg off width s = .next t) : SelectInv t := by
  unfold readReg at ht
  split at ht
  · cases ht
  · split at ht <;> cases ht <;> exact hs

/-- Every move of the host or the worker keeps the select invariant. -/
theorem selectInv_act {a : Action} {s t : State} (hhost : a.hostLevel = true) (h : Inv s) (hs : SelectInv s)
    (ht : act a s = .next t) : SelectInv t := by
  cases a with
  | issue header arg0 arg1 => exact selectInv_issue (tr := ⟨header, arg0, arg1⟩) hhost h hs ht
  | begin header arg0 => exact selectInv_beginCommand hhost h hs ht
  | caller => exact selectInv_callerMove h hs (outcome_eq_next.1 ht)
  | answer i => cases ht; exact selectInv_writeAnswer hs i
  | writeReg offset width value => exact selectInv_writeReg h hs ht
  | readReg offset width => exact selectInv_readReg hs ht
  | store addr value => cases ht; exact hs
  | worker => exact selectInv_execWorkerStep h hs ht
  | workerLock => cases ht; exact selectInv_workerLock h hs
  | reset => cases ht; exact selectInv_resetNow s
  | resetDuring move n =>
    simp only [act] at ht
    split at ht
    · cases ht; exact selectInv_resetNow _
    · cases ht
    · cases ht

/-- The default move is nobody's micro-operation. -/
theorem hostLevel_defaultMove (s : State) : (defaultMove s).hostLevel = true := by
  unfold defaultMove
  split
  · rfl
  · split <;> rfl

/-- Two registered slots with active selects are one slot (R135, R230 c). -/
theorem SelectInv.unique {s : State} (h : SelectInv s) {d e : Slot} (hd : s.ready d = true) (he : s.ready e = true)
    (hda : s.csActive d = true) (hea : s.csActive e = true) : d = e :=
  Option.some_inj.1 (((h d hd).2.1 hda).symm.trans ((h e he).2.1 hea))

/-- Settles O57: a step is a move of the host or the worker, and each keeps the lines as the selected device says. -/
theorem hostMovesKeepSelect : Obligations.HostMovesKeepSelect := by
  intro s t h hs hhost ht
  have hkeep : SelectInv t := by
    unfold State.hostMoves at hhost
    cases ha : s.agenda with
    | nil => exact selectInv_act (hostLevel_defaultMove s) h hs ((step_of_agenda_nil ha).symm.trans ht)
    | cons a rest =>
      rw [ha] at hhost
      have hrest : Inv { s with agenda := rest } := { h with }
      have hsel : SelectInv { s with agenda := rest } := hs
      exact selectInv_act hhost hrest hsel ((step_of_agenda_cons ha).symm.trans ht)
  exact ⟨hkeep, fun d e => hkeep.unique⟩

end Sys2Proof.Machine
end

section
/-! SUPPORT. How a Message starts (spec/43_cs_sequencer.md R138, R142): without Transfers it releases what is held and ends,
with Transfers it releases another device's select before the first of them; and a worker turn on either
(spec/44_queue_dispatcher.md R160, R162). -/

namespace Sys2Proof.Machine

/-! ### The start of a Message (R138, R142) -/

variable {s : State} {d : Slot} {m : Word}

/-- The two first reads and the release of `h`: nothing is written but the latch, the trace and the draw counter. -/
theorem release_firstReads_eq (m : Word) (hraced : s.raced = []) (h : Option Slot) :
    ∃ out, releaseHeld h (firstReads m s) = { s with
      gpioOut := out
      draws := s.draws + 2
      trace := s.trace ++ [.memRead m 4 (s.wordAt m), .memRead (m + 4) 4 (s.wordAt (m + 4))] ++ releaseEvents s h } := by
  obtain ⟨out, heq⟩ := releaseHeld_eq h (firstReads m s)
  refine ⟨out, ?_⟩
  rw [heq, releaseEvents_congr (sameControl_firstReads m s), (carried_firstReads m hraced).trace]
  rfl

/-- A Message without Transfers is its two first reads, the release of what is held and the results (R138). -/
theorem processMsg_of_empty (hruns : messageRuns s d m) (hraced : s.raced = []) (hzero : s.wordAt (m + 4) = 0)
    (h : Option Slot) : processMsg d m h s =
      .ok (writeResults m { held := none, status := 0, actual := 0 } (releaseHeld h (firstReads m s))) := by
  have hcount : s.transferCount m = 0 := congrArg BitVec.toNat hzero
  rw [processMsg_eq hruns hraced]
  unfold runMessage
  rw [if_pos hcount]

/-- A zero result fills the two result words with zero bytes. -/
theorem read_writeResults_zero {r : SeqResult} (hstatus : r.status = 0) (hactual : r.actual = 0)
    (hm : messageOk s.cfg m = .ok ()) {a : Nat} (hlow : m.toNat + 0x10 ≤ a) (hhigh : a < m.toNat + 0x18) :
    (writeResults m r s).mem.read a = some 0 := by
  obtain ⟨status, actual, -⟩ := read_writeResults r s hm
  have hzero : ∀ start, (0 : Word).extractLsb' start 8 = 0 := fun start => BitVec.extractLsb'_zero
  by_cases hword : a < m.toNat + 0x14
  · have hbyte := status (a - (m.toNat + 0x10)) (by omega)
    rwa [Nat.add_sub_cancel' hlow, hstatus, hzero] at hbyte
  · have hbyte := actual (a - (m.toNat + 0x14)) (by omega)
    rwa [Nat.add_sub_cancel' (Nat.not_lt.1 hword), hactual, hzero] at hbyte

/-- Settles O29: the Message is its two first reads, the release of the held select and two zero result words. -/
theorem emptyMessageReleasesSelect : Obligations.EmptyMessageReleasesSelect := by
  intro s d m hruns hraced hzero
  obtain ⟨out, heq⟩ := release_firstReads_eq m hraced s.heldCs
  have hm : messageOk (releaseHeld s.heldCs (firstReads m s)).cfg m = .ok () := by rw [heq]; exact hruns.2
  obtain ⟨-, -, hother⟩ := read_writeResults { held := none, status := 0, actual := 0 } _ hm
  refine ⟨_, congrArg outcome (processMsg_of_empty hruns hraced hzero s.heldCs), ?trace, rfl, fun a ha => ?other,
    fun a hlow hhigh => read_writeResults_zero rfl rfl hm hlow hhigh, ?frame⟩
  case trace => rw [trace_writeResults, heq, hzero]
  case other => rw [hother a ha, heq]
  case frame =>
    obtain ⟨mem, trace, hresults⟩ := writeResults_eq m { held := none, status := 0, actual := 0 }
      (releaseHeld s.heldCs (firstReads m s))
    rw [hresults, heq]

/-- A Message with Transfers for another device than the held one goes on from the released state (R142). -/
theorem extends_runMessage_of_switch {ptr : Word} {cnt : Nat} {h : Option Slot} {r : SeqResult} {u : State}
    (hr : runMessage d ptr cnt h s = .ok (r, u)) (hcnt : cnt ≠ 0) (hother : h ≠ some d) :
    Extends (releaseHeld h s) u := by
  unfold runMessage at hr
  rw [if_neg hcnt, if_neg hother] at hr
  split at hr
  · cases hr
  · exact extends_runTransfers hr

/-- Settles O32: the Transfers and the results only append to the trace the release leaves. -/
theorem deviceSwitchReleasesFirst : Obligations.DeviceSwitchReleasesFirst := by
  intro s t d e m hheld hne hraced hcount ht
  obtain ⟨r, u, -, -, hr, rfl⟩ := processMsg_ok (outcome_eq_next.1 ht)
  have hcnt : (memRead4 (m + 4) (memRead4 m s).2).1.toNat ≠ 0 := by
    rw [(memRead4_first m hraced).2]
    exact fun hz => hcount (BitVec.eq_of_toNat_eq hz)
  have hother : s.heldCs ≠ some d := by rw [hheld]; exact fun h => hne (Option.some_inj.1 h)
  obtain ⟨later, hlater⟩ := ((extends_runMessage_of_switch hr hcnt hother).trans (extends_writeResults m r u)).trace
  obtain ⟨out, heq⟩ := release_firstReads_eq m hraced s.heldCs
  refine ⟨later, ?_⟩
  rw [← hlater, show (memRead4 (m + 4) (memRead4 m s).2).2 = firstReads m s from rfl, heq, hheld]
  rfl

/-! ### A worker turn on a well-formed Message (R160) -/

/-- COMPLETE answers where its Message is well placed and the FIFO has room (R162). -/
theorem completeMsg_of_room (hm : messageOk s.cfg m = .ok ()) (hroom : hasRoom s.cfg s.comp.length = true) :
    ∃ t, completeMsg m s = .ok t := by
  unfold completeMsg
  rw [hm, if_pos hroom]
  exact ⟨_, rfl⟩

/-- After a Message the FIFO has the room it had, and its completion answers. -/
theorem completeMsg_of_processed {h : Option Slot} {u : State} (hp : processMsg d m h s = .ok u)
    (hroom : ∀ n, s.cfg.queueDepth = some n → s.comp.length < n) : ∃ v, completeMsg m u = .ok v := by
  have hc := processMsg_control hp
  obtain ⟨-, -, -, hm, -, -⟩ := processMsg_ok hp
  refine completeMsg_of_room (hc.cfg.symm ▸ hm) ?_
  rw [hc.cfg, hc.comp]
  exact (hasRoom_iff _ _).2 hroom

/-- The rest of a turn on a Message that leaves `u`: COMPLETE, and `h'` kept by the worker. -/
theorem serve_of_processed {e : Entry} {u : State} (hp : processMsg e.dev e.msg s.heldCs s = .ok u)
    (hroom : ∀ n, s.cfg.queueDepth = some n → s.comp.length < n) :
    ∃ v, completeMsg e.msg u = .ok v ∧ serve e s = .ok { v with worker := .owes u.seq.held } := by
  obtain ⟨v, hv⟩ := completeMsg_of_processed hp hroom
  refine ⟨v, hv, ?_⟩
  unfold serve
  rw [hp]
  simp only
  rw [hv]

/-- The rest of a turn on a well-formed Message with Transfers. -/
theorem exec_workerStep_of_serves {e : Entry} (hb : s.busy = true) (hw : s.worker = .serving) (hi : s.inflight = some e)
    (hs : messageServes s e.dev e.msg) (hroom : ∀ n, s.cfg.queueDepth = some n → s.comp.length < n) :
    ∃ u v gots, exec (.processMsg e.dev e.msg) s = .next u ∧ Served s u e.dev e.msg gots ∧
      exec (.complete e.dev e.msg) u = .next v ∧ exec .workerStep s = .next { v with worker := .owes u.seq.held } := by
  obtain ⟨u, gots, hexec, hserved⟩ := exec_processMsg_of_serves hs
  have hp : processMsg e.dev e.msg s.heldCs s = .ok u := outcome_eq_next.1 hexec
  obtain ⟨v, hv, hserve⟩ := serve_of_processed hp hroom
  have hslot : u.cfg.hasSlot e.dev = true := (processMsg_control hp).cfg.symm ▸ hs.1.hasSlot
  refine ⟨u, v, gots, hexec, hserved, ?_, ?_⟩
  · exact (execComplete_eq hslot).trans (congrArg outcome hv)
  · rw [exec_workerStep_of_serving hb hw hi, hserve]
    rfl

/-- The rest of a turn on a Message without Transfers: a zero result, no held select, the Message still in the
sequencer. -/
theorem exec_workerStep_of_empty {e : Entry} (hb : s.busy = true) (hw : s.worker = .serving) (hi : s.inflight = some e)
    (hruns : messageRuns s e.dev e.msg) (hraced : s.raced = []) (hzero : s.wordAt (e.msg + 4) = 0)
    (hroom : ∀ n, s.cfg.queueDepth = some n → s.comp.length < n) :
    ∃ t, exec .workerStep s = .next t ∧ t.seq = { held := none, status := 0, actual := 0 } ∧ t.selected = none ∧
      t.inflight = some e ∧ t.queue = s.queue := by
  obtain ⟨v, hv, hserve⟩ := serve_of_processed (processMsg_of_empty hruns hraced hzero s.heldCs) hroom
  obtain ⟨r, hsame, -⟩ := serve_effect hserve
  have hexec := (exec_workerStep_of_serving hb hw hi).trans (congrArg outcome hserve)
  exact ⟨_, hexec, (sameControl_completeMsg hv).seq, selected_of_owes rfl, hsame.inflight.trans hi, hsame.queue⟩

/-- The entry a turn takes is one of the queue's. -/
theorem mem_of_takeNext {queue rest : List Entry} {held : Option Slot} {e : Entry}
    (h : takeNext queue held = some (e, rest)) : e ∈ queue := by
  rcases takeNext_cases queue held with ⟨-, hnone⟩ | ⟨e', rest', hsome, hmem, -⟩
  · rw [h] at hnone; cases hnone
  · rw [h] at hsome; cases hsome; exact hmem

/-- A Message taken from the queue is the Message it was there. -/
theorem sameMessages_taken (e : Entry) (rest : List Entry) (s : State) : SameMessages s (taken e rest s) := by
  rw [taken_eq]
  exact ⟨rfl, rfl, rfl, rfl, rfl⟩

/-- Settles O42: what is left of a turn is PROCESS_MSG, which answers on every such Message, and COMPLETE, which has room; a
whole turn is that from the state its locked region leaves. -/
theorem workerServesReleaseMessage : Obligations.WorkerServesReleaseMessage := by
  refine ⟨fun s e hb hw hi hs hroom => exec_workerStep_of_serves hb hw hi hs hroom,
    fun s e rest hb hi htake hs hroom => ?turn, fun s e rest h hb htake hi hraced hm hzero hroom => ?empty⟩
  all_goals
    have hsame := sameMessages_taken e rest s
    have hbusy := (taken_busy e rest s).trans hb
    have hroom' : ∀ n, (taken e rest s).cfg.queueDepth = some n → (taken e rest s).comp.length < n := by
      rw [taken_eq]; exact hroom
    rw [exec_workerStep_of_takeNext hb hi htake]
  case turn => exact exec_workerStep_of_serves hbusy rfl rfl (hsame.serves hs) hroom'
  case empty =>
    have hruns : messageRuns s e.dev e.msg :=
      ⟨(Bool.and_eq_true_iff.1 (h.queued e (mem_of_takeNext htake))).1, hm⟩
    have hraced' := hsame.raced.trans hraced
    have hword := (wordAt_congr hraced hraced' hsame.mem (e.msg + 4)).trans hzero
    exact exec_workerStep_of_empty hbusy rfl rfl (hsame.messageRuns hruns) hraced' hword hroom'

end Sys2Proof.Machine
end

section
/-! SUPPORT. The dispatcher's remaining cases (spec/44_queue_dispatcher.md): a REGDEV that is rejected (R155, R156), a turn
that takes no Message (R160, R202), the selection of the next one (R161), the first events of SUBMIT_ATOMIC (R164, R165). -/

namespace Sys2Proof.Machine

/-! ### A rejected REGDEV (R155, R156, R182) -/

section
variable {s : State} {d : Slot} (bpw mode : Byte) (hz : Word) (hmis : s.misconfigured = false)
include hmis

theorem execRegdev_of_unsupported (hslot : s.cfg.hasSlot d = true) (hvalid : (s.dev d).valid = false)
    (hmode : modeUnsupported s.cfg mode bpw hz = true) :
    execRegdev d bpw mode hz s = .next (raiseInResult .unsupportedMode s) := by
  unfold execRegdev
  simp [hmis, hslot, hvalid, hmode]

theorem execRegdev_of_registered (hslot : s.cfg.hasSlot d = true) (hvalid : (s.dev d).valid = true) :
    execRegdev d bpw mode hz s = .refused .slotAlreadyRegistered := by
  unfold execRegdev
  simp [hmis, hslot, hvalid]

theorem execRegdev_of_noSuchSlot (hslot : s.cfg.hasSlot d = false) :
    execRegdev d bpw mode hz s = .refused .noSuchSlot := by
  unfold execRegdev
  simp [hmis, hslot]

end

/-- Settles O35: REGDEV asks for the slot, then that it is free, then for the mode; each clause is one of those tests. -/
theorem regdevRejects : Obligations.RegdevRejects := by
  refine fun s d bpw mode hz hmis => ⟨fun hslot hvalid hbad => ?_, execRegdev_of_registered bpw mode hz hmis,
    execRegdev_of_noSuchSlot bpw mode hz hmis⟩
  have hmode : modeUnsupported s.cfg mode bpw hz = true := by
    refine Bool.eq_true_of_not_eq_false fun hok => ?_
    obtain ⟨hbits, hcpha, hbpw, hhz⟩ := modeUnsupported_eq_false.1 hok
    rcases hbad with hbits' | ⟨hphase, hunsupported⟩ | hbpw' | hhz'
    · exact hbits' hbits
    · exact Bool.false_ne_true (hunsupported.symm.trans (hcpha hphase))
    · exact hbpw' hbpw
    · exact hhz hhz'
  exact execRegdev_of_unsupported bpw mode hz hmis hslot hvalid hmode

/-! ### A turn that takes no Message (R160, R202) -/

theorem exec_workerStep_of_asleep {s : State} (hb : s.busy = false) : exec .workerStep s = .next s :=
  if_neg (by rw [hb]; exact Bool.false_ne_true)

/-- A worker that is not past a locked region has nothing to serve. -/
theorem serveCurrent_of_atStart {s : State} (hw : s.worker = .atStart) : serveCurrent s = .ok s := by
  unfold serveCurrent
  rw [hw]

/-- The locked region finds the sequencer occupied and waits. -/
theorem lockRegion_of_occupied {s : State} (hi : (writeBack s).inflight.isSome = true) : lockRegion s = writeBack s := by
  obtain ⟨e, he⟩ := Option.isSome_iff_exists.1 hi
  unfold lockRegion
  simp only [he]

/-- The locked region finds the queue empty and the worker goes to sleep. -/
theorem lockRegion_of_empty {s : State} (hi : (writeBack s).inflight = none) (hq : (writeBack s).queue = []) :
    lockRegion s = { writeBack s with busy := false } := by
  have htake : takeNext (writeBack s).queue (writeBack s).heldCs = none := by
    rcases takeNext_cases (writeBack s).queue (writeBack s).heldCs with ⟨-, hnone⟩ | ⟨e, -, -, hmem, -⟩
    · exact hnone
    · rw [hq] at hmem; cases hmem
  unfold lockRegion
  simp only [hi, htake]

theorem writeBack_of_atStart {s : State} (hw : s.worker = .atStart) : writeBack s = s := by
  unfold writeBack
  rw [hw]

theorem writeBack_of_owes {s : State} {h : Option Slot} (hw : s.worker = .owes h) :
    writeBack s = { s with heldCs := h, inflight := none, worker := .atStart } := by
  unfold writeBack
  rw [hw]

/-- A turn whose locked region leaves the worker at its start is that locked region. -/
theorem exec_workerStep_of_lockRegion {s t : State} (hb : s.busy = true) (hlock : lockRegion s = t)
    (hw : t.worker = .atStart) : exec .workerStep s = .next t := by
  rw [exec_workerStep_of_busy hb, hlock, serveCurrent_of_atStart hw]
  rfl

/-- Settles O39: a sleeping worker does nothing; an awake one does its locked region, which is the write-back and then
sleep or waiting. -/
theorem idleWorkerTurns : Obligations.IdleWorkerTurns := by
  refine ⟨fun s hb => exec_workerStep_of_asleep hb, fun s h hb hq hw => ?owes, fun s hb hq hw hi => ?empty,
    fun s hw hi => ?occupied⟩
  case owes =>
    have hback := writeBack_of_owes hw
    have hlock := lockRegion_of_empty (s := s) (by rw [hback]) (by rw [hback]; exact hq)
    exact exec_workerStep_of_lockRegion hb (by rw [hlock, hback]) rfl
  case empty =>
    have hback := writeBack_of_atStart hw
    have hlock := lockRegion_of_empty (s := s) (by rw [hback]; exact hi) (by rw [hback]; exact hq)
    exact exec_workerStep_of_lockRegion hb (by rw [hlock, hback]) hw
  case occupied =>
    have hback := writeBack_of_atStart hw
    have hlock := lockRegion_of_occupied (s := s) (by rw [hback]; exact hi)
    cases hb : s.busy with
    | false => exact exec_workerStep_of_asleep hb
    | true => exact exec_workerStep_of_lockRegion hb (by rw [hlock, hback]) hw

/-! ### The selection (R161) -/

/-- Taking the entry at the selected place leaves the others in their order. -/
theorem takeNext_of_select {older newer : List Entry} {e : Entry} {held : Option Slot}
    (h : select (older ++ e :: newer) held = older.length) :
    takeNext (older ++ e :: newer) held = some (e, older ++ newer) := by
  unfold takeNext
  simp [h, List.eraseIdx_append_of_length_le]

/-- The first entry of the held device is selected. -/
theorem select_of_first {older : List Entry} {e : Entry} (hfirst : ∀ x ∈ older, x.dev ≠ e.dev) (newer : List Entry) :
    select (older ++ e :: newer) (some e.dev) = older.length := by
  have hnone : older.findIdx? (fun q => q.dev == e.dev) = none :=
    List.findIdx?_eq_none_iff.2 fun x hx => beq_false_of_ne (hfirst x hx)
  unfold select
  simp [List.findIdx?_append, List.findIdx?_cons, hnone]

/-- The head is selected when nothing is held, or no entry is of the held device. -/
theorem select_of_no_match {queue : List Entry} {held : Option Slot}
    (hno : ∀ h, held = some h → ∀ x ∈ queue, x.dev ≠ h) : select queue held = 0 := by
  cases held with
  | none => rfl
  | some h =>
    have hnone : queue.findIdx? (fun q => q.dev == h) = none :=
      List.findIdx?_eq_none_iff.2 fun x hx => beq_false_of_ne (hno h rfl x hx)
    unfold select
    simp only [hnone, Option.getD_none]

/-- A queue with an entry of a device splits at the oldest one. -/
theorem split_at_oldest {queue : List Entry} {h : Slot} (hmem : ∃ x ∈ queue, x.dev = h) :
    ∃ e older newer, queue = older ++ e :: newer ∧ e.dev = h ∧ ∀ x ∈ older, x.dev ≠ h := by
  obtain ⟨x, hx, hdev⟩ := hmem
  obtain ⟨e, hfind⟩ := Option.isSome_iff_exists.1
    (List.find?_isSome.2 ⟨x, hx, beq_iff_eq.2 hdev⟩ : (queue.find? (fun q => q.dev == h)).isSome = true)
  obtain ⟨he, older, newer, hsplit, hfirst⟩ := List.find?_eq_some_iff_append.1 hfind
  exact ⟨e, older, newer, hsplit, beq_iff_eq.1 he, fun x hx => by simpa using hfirst x hx⟩

/-- Settles O40: the queue splits at the oldest entry of the held device, or at its head when there is none. -/
theorem selectionPrefersHeldDevice : Obligations.SelectionPrefersHeldDevice := by
  intro queue held hne
  by_cases hmatch : ∃ h, held = some h ∧ ∃ x ∈ queue, x.dev = h
  case pos =>
    obtain ⟨h, rfl, hmem⟩ := hmatch
    obtain ⟨e, older, newer, rfl, rfl, hfirst⟩ := split_at_oldest hmem
    obtain ⟨x, hx, hdev⟩ := hmem
    exact ⟨e, older, newer, takeNext_of_select (select_of_first hfirst newer), rfl, hfirst,
      fun h hh _ => Option.some_inj.1 hh, fun hno => absurd hdev (hno _ rfl x hx)⟩
  case neg =>
    have hno : ∀ h, held = some h → ∀ x ∈ queue, x.dev ≠ h := fun h hh x hx hdev => hmatch ⟨h, hh, x, hx, hdev⟩
    obtain ⟨e, newer, rfl⟩ := List.exists_cons_of_ne_nil hne
    exact ⟨e, [], newer, takeNext_of_select (older := []) (select_of_no_match hno), rfl, fun x hx => (nomatch hx),
      fun h hh hmem => absurd ⟨h, hh, hmem⟩ hmatch, fun _ => rfl⟩

/-! ### The first events of SUBMIT_ATOMIC (R164, R165) -/

variable {s t : State} {d : Slot} {m : Word}

/-- The forced release appends the deassert events of whatever is held; without a hazard nothing is appended. -/
theorem trace_atomicStart (d : Slot) (m : Word) (s : State) :
    (atomicStart d m s).trace = s.trace ++ (if atomicHazard d s = true then releaseEvents s s.heldCs else []) := by
  unfold atomicStart
  split
  · obtain ⟨out, heq⟩ := releaseHeld_eq s.heldCs (enterAtomic d m s)
    rw [heq]
    rfl
  · exact (List.append_nil _).symm

/-- The first event of PROCESS_MSG is the read of the Message's first word (R139). -/
theorem extends_firstRead {h : Option Slot} (hp : processMsg d m h s = .ok t) : Extends (memRead4 m s).2 t := by
  obtain ⟨r, u, -, -, hr, rfl⟩ := processMsg_ok hp
  exact (extends_memRead4 (m + 4) _).trans <| (extends_runMessage hr).trans (extends_writeResults m r u)

/-- Settles O45: the command is the forced release and then PROCESS_MSG, and what follows only appends. -/
theorem atomicHazardReleasesFirst : Obligations.AtomicHazardReleasesFirst := by
  intro s t d m hmis hraced h
  change execSubmitAtomic d m s = .next t at h
  unfold execSubmitAtomic at h
  rw [hmis] at h
  obtain ⟨-, -, -, u, hp, rfl⟩ := runAtomic_iff.1 (outcome_eq_next.1 h)
  have hend : Extends u (writeAnswer s.answers.length (writeBackAtomic u.seq { u with caller := .processed u.seq })) :=
    ((extends_writeBackAtomic _ _).trans (extends_writeAnswer _ _)).after_eq rfl rfl
  obtain ⟨later, hlater⟩ := ((extends_firstRead hp).trans hend).trace
  have hsame := sameMessages_atomicStart d m s
  have hword : (atomicStart d m s).wordAt m = s.wordAt m :=
    wordAt_congr hraced (hsame.raced.trans hraced) hsame.mem m
  refine ⟨later, ?_⟩
  simp only [← hlater, memRead4_eq, trace_atomicStart, hword, atomicHazard_iff, List.append_assoc,
    List.singleton_append]

end Sys2Proof.Machine
end

section
/-! SUPPORT. Construction and a construction that failed (spec/60_exceptions.md R183, spec/70_reset_and_hazards.md
R210): the three operations of construction in closed form, and what a misconfigured controller answers. -/

namespace Sys2Proof.Machine

/-! ### A misconfigured controller (R183) -/

/-- BusMisconfigured is recorded as code 2 with the error bit (R24, R180). -/
theorem raiseInResult_busMisconfigured (s : State) :
    raiseInResult .busMisconfigured s = { s with result := 0x80000002 } := rfl

/-- Settles O36: each of the three commands asks first whether construction failed. -/
theorem misconfiguredAnswersOnly : Obligations.MisconfiguredAnswersOnly := by
  intro s i hmis hcommand
  rw [← raiseInResult_busMisconfigured]
  rcases hcommand with ⟨d, bpw, mode, hz, rfl⟩ | ⟨d, m, rfl⟩ | ⟨d, m, rfl⟩ <;> exact if_pos hmis

/-! ### The masks of construction (R210) -/

variable {c : Config}

/-- Setting the lines `m` from zero and clearing the lines `cut`, of which none is in `m`, leaves `m`. -/
theorem setThenClear_of_apart {m cut : Word} (hapart : ∀ i < 32, m.getLsbD i = true → cut.getLsbD i = false) :
    (0 ||| m) &&& ~~~cut = m := by
  refine BitVec.eq_of_getLsbD_eq fun i hi => ?_
  rw [BitVec.ofNat_eq_ofNat, BitVec.zero_or, BitVec.getLsbD_and, BitVec.getLsbD_not, decide_eq_true hi]
  cases hm : m.getLsbD i with
  | false => rfl
  | true => rw [hapart i hi hm]; rfl

/-- Of the lines construction latches high it latches none low (log 26). -/
theorem resetLow_of_allAuxLow (h : c.wf = true) {i : Nat} (hi : i < 32) (hlow : c.allAuxLow.getLsbD i = true) :
    c.resetLow.getLsbD i = false := by
  have hhooks : (c.allAuxHigh ||| c.allStrobe).getLsbD i = false := getLsbD_of_disjoint (wf_senses h) hlow
  have hbus : ∀ n, n = c.sck ∨ n = c.mosi → n ≠ i := by
    rintro n hn rfl
    have hoff := getLsbD_allAuxLow_of_no_hook fun p hp => hookLines_of_signal h hi (hn.imp_right .inl) hp
    exact Bool.false_ne_true (hoff.symm.trans hlow)
  rw [BitVec.getLsbD_or, Bool.or_eq_false_iff] at hhooks
  obtain ⟨hhigh, hstrobe⟩ := hhooks
  unfold Config.resetLow
  simp only [BitVec.getLsbD_or, getLsbD_bit _ _ hi, hbus _ (.inl rfl), hbus _ (.inr rfl), hhigh, hstrobe,
    decide_false, Bool.or_self]

/-- MISO, which construction makes an input, is none of the lines it makes outputs. -/
theorem resetPP_miso (h : c.wf = true) : c.resetPP.getLsbD c.miso = false := by
  obtain ⟨-, -, hmiso, -, hsckMiso, hmosiMiso⟩ := Config.wf_bus h
  rw [Bool.eq_false_iff, Ne, getLsbD_resetPP hmiso]
  rintro (hs | hm | ⟨p, hp, hi⟩)
  · exact hsckMiso hs
  · exact hmosiMiso hm
  · rw [hookLines_of_signal h hmiso (.inr (.inr (.inl rfl))) hp] at hi; cases hi

theorem miso_of_resetPP (h : c.wf = true) {i : Nat} (hi : i < 32) (hout : c.resetPP.getLsbD i = true) :
    (bit c.miso).getLsbD i = false := by
  rw [getLsbD_bit _ _ hi, decide_eq_false_iff_not]
  rintro rfl
  exact Bool.false_ne_true ((resetPP_miso h).symm.trans hout)

/-! ### The construction sequence (R210) -/

/-- With the GPIO mapped, construction is its three operations on the latch, the directions and the trace. -/
theorem construction_of_mapped {s : State} (h : s.cfg.gpioMapped = true) :
    construction s =
      { s with
        gpioOut := (s.gpioOut ||| s.cfg.allAuxLow) &&& ~~~s.cfg.resetLow
        gpioPP := (s.gpioPP ||| s.cfg.resetPP) &&& ~~~bit s.cfg.miso
        gpioOD := s.gpioOD &&& ~~~s.cfg.resetPP &&& ~~~bit s.cfg.miso
        trace := s.trace ++ [.lineSet s.cfg.allAuxLow s.cfg.resetLow, .lineDir s.cfg.resetPP .pushPull,
          .lineDir (bit s.cfg.miso) .input] } := by
  unfold construction
  rw [if_pos h, lineSet_eq]
  simp only [lineDir, emit, List.append_assoc, List.cons_append, List.nil_append]

theorem construction_of_unmapped {s : State} (h : s.cfg.gpioMapped = false) : construction s = s :=
  if_neg (by rw [h]; exact Bool.false_ne_true)

/-- Construction from power-on, whether the GPIO is mapped or not. -/
theorem construction_powerOn (hwf : c.wf = true) : construction (State.powerOn c) = State.constructed c := by
  cases hmap : c.gpioMapped with
  | false => rw [constructed_of_unmapped hmap]; exact construction_of_unmapped hmap
  | true =>
    have hlatch : (0 ||| c.allAuxLow) &&& ~~~c.resetLow = c.allAuxLow :=
      setThenClear_of_apart fun _ hi => resetLow_of_allAuxLow hwf hi
    have houtputs : (0 ||| c.resetPP) &&& ~~~bit c.miso = c.resetPP :=
      setThenClear_of_apart fun _ hi => miso_of_resetPP hwf hi
    have hopenDrain : (0 : Word) &&& ~~~c.resetPP &&& ~~~bit c.miso = 0 := by
      rw [BitVec.ofNat_eq_ofNat, BitVec.zero_and, BitVec.zero_and]
    have hseq : construction (State.powerOn c) = _ := construction_of_mapped hmap
    rw [hseq, constructed_of_mapped hmap]
    simp only [State.powerOn, hlatch, houtputs, hopenDrain, List.nil_append]

/-- Without the GPIO every line stays as reset left it: an input with latch 0 (R19, R183). -/
theorem unmapped_line (h : c.gpioMapped = false) (n : Nat) :
    (State.constructed c).dirOf n = .input ∧ (State.constructed c).gpioOut.getLsbD n = false := by
  rw [constructed_of_unmapped h]
  have hzero : (0 : Word).getLsbD n = false := BitVec.getLsbD_zero
  refine ⟨?_, hzero⟩
  unfold State.dirOf State.powerOn
  simp only [hzero, Bool.false_eq_true, if_false]

/-- Settles O53: the masks of construction do not cut each other, and without the GPIO nothing is written. -/
theorem constructionSequence : Obligations.ConstructionSequence := by
  refine ⟨fun c hwf => construction_powerOn hwf, fun c hmap => ⟨?mark, ?events, unmapped_line hmap⟩⟩
  all_goals rw [constructed_of_unmapped hmap]
  case mark => exact congrArg (!·) hmap
  case events => rfl

end Sys2Proof.Machine
end

section
/-! SUPPORT. A reset with work outstanding (spec/70_reset_and_hazards.md R210, R212): it is a constructed controller with
what is outside the block kept, and every move but a host store and a register read replays its events, so that a reset
after the last of them is the reset after the move. -/

namespace Sys2Proof.Machine

/-! ### Reset between moves (R210, R212) -/

/-- The state in which a reset starts construction: power-on, with what is outside the block kept (log 14). -/
def keptPowerOn (s : State) : State :=
  { State.powerOn s.cfg with
    mem := s.mem, trace := s.trace, lineScript := s.lineScript, draws := s.draws, agenda := s.agenda }

theorem resetNow_eq_construction (s : State) : resetNow s = construction (keptPowerOn s) := rfl

/-- A reset on a legal platform is the constructed controller with what is outside the block kept (log 14). -/
theorem resetNow_eq {s : State} (hwf : s.cfg.wf = true) :
    resetNow s =
      { State.constructed s.cfg with
        mem := s.mem, lineScript := s.lineScript, draws := s.draws, agenda := s.agenda
        trace := s.trace ++ (State.constructed s.cfg).trace } := by
  rw [← construction_powerOn hwf, resetNow_eq_construction]
  cases hmap : s.cfg.gpioMapped with
  | true =>
    rw [construction_of_mapped (s := keptPowerOn s) hmap, construction_of_mapped (s := State.powerOn s.cfg) hmap]
    rfl
  | false =>
    have htrace : s.trace = s.trace ++ (State.powerOn s.cfg).trace := (List.append_nil _).symm
    rw [construction_of_unmapped (s := keptPowerOn s) hmap, construction_of_unmapped (s := State.powerOn s.cfg) hmap,
      ← htrace]
    rfl

theorem agenda_construction (s : State) : (construction s).agenda = s.agenda := by
  cases hmap : s.cfg.gpioMapped with
  | true => rw [construction_of_mapped hmap]
  | false => rw [construction_of_unmapped hmap]

theorem agenda_resetNow (s : State) : (resetNow s).agenda = s.agenda := agenda_construction (keptPowerOn s)

/-! ### Reset inside a move (R212) -/

/-- `s` with the events `l` appended to the trace, and what they stored and used up outside the block (R41, R49). -/
def afterEvents (l : List Event) (s : State) : State :=
  { s with
    mem := l.foldl replayEvent s.mem
    trace := s.trace ++ l
    lineScript := s.lineScript.drop (l.countP isLineGet)
    draws := s.draws + l.countP isDraw }

theorem replayOf_afterEvents (l : List Event) (s : State) : ReplayOf l s (afterEvents l s) := ⟨rfl, rfl, rfl, rfl⟩

/-- A reset after the first `n` of the events `l` of a move is a reset of the state after those. -/
theorem resetWithin_of_trace {s t : State} {l : List Event} (ht : t.trace = s.trace ++ l) (n : Nat) :
    resetWithin n s t = resetNow (afterEvents (l.take n) s) := by
  obtain ⟨done, hdone, heq⟩ := resetWithin_eq n s t
  rw [ht, List.drop_left] at hdone
  rw [heq, hdone]
  rfl

/-- A reset after the last event of a move that replays its events is the reset after the move. -/
theorem resetWithin_of_length_le {s t : State} {l : List Event} {n : Nat} (hcfg : t.cfg = s.cfg)
    (hagenda : t.agenda = s.agenda) (hl : ReplayOf l s t) (hn : l.length ≤ n) : resetWithin n s t = resetNow t := by
  have hkept : keptPowerOn t = keptPowerOn (afterEvents l s) := by
    unfold keptPowerOn afterEvents
    rw [hcfg, hagenda, hl.trace, hl.mem, hl.script, hl.draws]
  rw [resetWithin_of_trace hl.trace, List.take_of_length_le hn, resetNow_eq_construction, resetNow_eq_construction, hkept]

/-! ### No operation writes the agenda (R8) -/

theorem agenda_lockRegion (s : State) : (lockRegion s).agenda = s.agenda := by
  have hback : (writeBack s).agenda = s.agenda := by
    rcases writeBack_eq s with ⟨h, -, heq⟩ | ⟨-, heq⟩ <;> rw [heq]
  rcases lockRegion_cases s with ⟨-, heq⟩ | ⟨-, -, heq⟩ | ⟨e, rest, -, -, heq⟩ <;> rw [heq] <;> exact hback

theorem agenda_workerTurn {s t : State} (h : workerTurn s = .ok t) : t.agenda = s.agenda := by
  refine Eq.trans ?_ (agenda_lockRegion s)
  rcases serveCurrent_ok h with ⟨e, -, -, hserve⟩ | rfl
  · obtain ⟨r, hcontrol, -⟩ := serve_effect hserve
    exact hcontrol.agenda
  · rfl

theorem agenda_callerMove {s t : State} (h : callerMove s = .ok t) : t.agenda = s.agenda := by
  rcases callerMove_ok h with ⟨hazard, e, -, -, hp⟩ | ⟨r, -, rfl⟩ | rfl
  · obtain ⟨u, hu, rfl⟩ := processAtomic_ok hp
    have hrelease : (if hazard then releaseHeld s.heldCs s else s).agenda = s.agenda := by
      split
      · exact (sameControl_releaseHeld _ s).agenda
      · rfl
    exact (processMsg_control hu).agenda.trans hrelease
  · obtain ⟨raced, heq⟩ := writeBackAtomic_eq r s
    rw [heq]
  · rfl

theorem agenda_writeAnswer (i : Nat) (s : State) : (writeAnswer i s).agenda = s.agenda := by
  obtain ⟨result, answers, heq⟩ := writeAnswer_eq i s
  rw [heq]

theorem agenda_admission {d : Slot} {m : Word} {s t : State} (h : admission d m s = .ok t) : t.agenda = s.agenda := by
  obtain ⟨-, -, -, rfl⟩ := admission_ok.1 h
  rfl

theorem agenda_runAtomic {d : Slot} {m : Word} {s t : State} (h : runAtomic d m s = .ok t) : t.agenda = s.agenda := by
  obtain ⟨s1, s2, s3, h1, h2, h3, rfl⟩ := runAtomic_ok h
  calc (writeAnswer s.answers.length s3).agenda = s3.agenda := agenda_writeAnswer _ s3
    _ = s2.agenda := agenda_callerMove h3
    _ = s1.agenda := agenda_callerMove h2
    _ = s.agenda := agenda_admission h1

/-- Every operation leaves the agenda as it was. -/
theorem agenda_exec {i : Instr} {s t : State} (h : exec i s = .next t) : t.agenda = s.agenda := by
  cases i with
  | regdev dev bpw mode hz =>
    rcases execRegdev_next h with ⟨e, rfl⟩ | ⟨-, -, -, -, rfl⟩
    · rfl
    · rw [registerDevice_eq]
  | submit dev msg => rcases execSubmit_next h with ⟨e, rfl⟩ | ⟨-, -, rfl⟩ <;> rfl
  | submitAtomic dev msg =>
    rcases execSubmitAtomic_next h with ⟨e, rfl⟩ | hrun
    · rfl
    · exact agenda_runAtomic hrun
  | gpioSet high low =>
    obtain ⟨-, rfl⟩ := execGpioSet_next h
    exact (sameControl_lineSet high low s).agenda
  | gpioGet => cases h; rfl
  | gpioDir direction mask =>
    obtain ⟨-, dir, rfl⟩ := execGpioDir_next h
    cases dir <;> rfl
  | delay ns => cases h; exact (sameControl_waitNs ns s).agenda
  | shiftByte cpha cpol wantRx tx =>
    obtain ⟨ret, rfl⟩ := execShiftByte_next h
    exact (sameUnit_shiftByte cpha cpol wantRx tx s).agenda
  | shiftWord cs cpol count tx =>
    obtain ⟨ret, rfl⟩ := execShiftWord_next h
    exact (sameUnit_shiftWord cs cpol count tx s).agenda
  | xfer dev desc =>
    obtain ⟨ret, rfl⟩ := execXfer_next h
    exact (sameTransfer_xfer dev (transferAt desc s) s).agenda
  | setSpeed hz => rw [setSpeedChecked_ok (outcome_eq_next.1 h), setSpeed_agenda]
  | csAssert dev => rw [guarded_eq_next h]; exact (sameControl_csAssert dev s).agenda
  | csDeassert dev => rw [guarded_eq_next h]; exact (sameControl_csDeassert dev s).agenda
  | processMsg dev msg => exact (processMsg_control (outcome_eq_next.1 h)).agenda
  | workerStep =>
    rcases execWorkerStep_next h with ⟨-, hturn⟩ | ⟨-, rfl⟩
    · exact agenda_workerTurn hturn
    · rfl
  | complete dev msg => exact (sameControl_completeMsg (execComplete_next h)).agenda

/-! ### What a move leaves for a reset after it -/

/-- From `s` to `t` memory, the script and the draw counter are what the new events make of them, and the agenda is as
it was. -/
structure ReplaysMove (s t : State) : Prop where
  events : Replays StoreInBounds s t
  agenda : t.agenda = s.agenda

theorem ReplaysMove.refl (s : State) : ReplaysMove s s := ⟨.refl s, rfl⟩

/-- The new events of the trace store inside the address space. -/
def EventsInBounds (s t : State) : Prop := ∃ l, t.trace = s.trace ++ l ∧ ∀ e ∈ l, StoreInBounds e

theorem ReplaysMove.eventsInBounds {s t : State} (h : ReplaysMove s t) : EventsInBounds s t := by
  obtain ⟨l, hl, hb⟩ := h.events
  exact ⟨l, hl.trace, hb⟩

theorem eventsInBounds_of_trace_eq {s t : State} (h : t.trace = s.trace) : EventsInBounds s t :=
  ⟨[], h.trans (List.append_nil _).symm, nofun⟩

theorem replaysMove_exec {i : Instr} {s t : State} (h : exec i s = .next t) : ReplaysMove s t :=
  ⟨replays_exec h, agenda_exec h⟩

/-- An operation issued with its first argument put into ARG0. -/
theorem replaysMove_exec_arg0 {i : Instr} {arg0 : Word} {s t : State} (h : exec i { s with arg0 := arg0 } = .next t) :
    ReplaysMove s t := by
  have hagenda := agenda_exec h
  exact ⟨(replays_exec h).after rfl rfl rfl rfl, hagenda⟩

theorem replaysMove_issue {tr : Triple} {s t : State} (h : issue tr s = .next t) : ReplaysMove s t := by
  unfold issue at h
  split at h
  · cases h
  · split at h
    · exact replaysMove_exec_arg0 h
    · exact replaysMove_exec h

theorem replaysMove_beginCommand {header arg0 : Word} {s t : State} (h : beginCommand header arg0 s = .next t) :
    ReplaysMove s t := by
  unfold beginCommand at h
  split at h
  · rcases beginAtomic_next h with ⟨e, rfl⟩ | hadm
    · exact ⟨.of_eq rfl rfl rfl rfl, rfl⟩
    · obtain ⟨-, -, -, rfl⟩ := admission_ok.1 hadm
      exact ⟨.of_eq rfl rfl rfl rfl, rfl⟩
  · exact replaysMove_issue h

theorem replaysMove_writeCmd {w : Word} {s t : State} (h : writeCmd w s = .next t) : ReplaysMove s t := by
  unfold writeCmd at h
  split at h
  · cases h
  · exact replaysMove_exec h

theorem replaysMove_writeReg {off v : Word} {width : Nat} {s t : State} (h : writeReg off width v s = .next t) :
    ReplaysMove s t := by
  unfold writeReg at h
  split at h
  · cases h
  · split at h
    · exact replaysMove_writeCmd h
    · split at h
      · cases h; exact ⟨.of_eq rfl rfl rfl rfl, rfl⟩
      · split at h
        · cases h; exact ⟨.of_eq rfl rfl rfl rfl, rfl⟩
        · split at h <;> cases h <;> exact ⟨.of_eq rfl rfl rfl rfl, rfl⟩

theorem replaysMove_callerMove {s t : State} (h : callerMove s = .ok t) : ReplaysMove s t :=
  ⟨replays_callerMove h, agenda_callerMove h⟩

theorem replaysMove_writeAnswer (i : Nat) (s : State) : ReplaysMove s (writeAnswer i s) := by
  obtain ⟨result, answers, heq⟩ := writeAnswer_eq i s
  rw [heq]
  exact ⟨.of_eq rfl rfl rfl rfl, rfl⟩

theorem replaysMove_workerLock (s : State) : ReplaysMove s (workerLock s) := by
  unfold workerLock
  split
  · exact ⟨replays_lockRegion s, agenda_lockRegion s⟩
  · exact .refl s

theorem replays_construction (s : State) : Replays StoreInBounds s (construction s) := by
  unfold construction
  split
  · exact (replays_lineSet _ _ s trivial).trans <| (replays_lineDir _ _ _ trivial).trans (replays_lineDir _ _ _ trivial)
  · exact .refl s

theorem replaysMove_resetNow (s : State) : ReplaysMove s (resetNow s) :=
  ⟨(replays_construction _).after rfl rfl rfl rfl, agenda_resetNow s⟩

/-- A reset inside any move whose events store inside the address space replays the events before it. -/
theorem replaysMove_resetWithin {s t : State} (h : EventsInBounds s t) (n : Nat) :
    ReplaysMove s (resetWithin n s t) := by
  obtain ⟨l, ht, hb⟩ := h
  have hcut : Replays StoreInBounds s (afterEvents (l.take n) s) :=
    ⟨_, replayOf_afterEvents _ s, fun e he => hb e (List.mem_of_mem_take he)⟩
  have hreset := replaysMove_resetNow (afterEvents (l.take n) s)
  rw [resetWithin_of_trace ht]
  exact ⟨hcut.trans hreset.events, hreset.agenda⟩

/-! ### Every move -/

theorem trace_readReg {off : Word} {width : Nat} {s t : State} (h : readReg off width s = .next t) :
    t.trace = s.trace := by
  unfold readReg at h
  split at h
  · cases h
  · split at h <;> cases h <;> rfl

/-- A move that changes the environment or memory without an event: a host store, a register read (R27, R57). -/
def Action.eventless : Action → Bool
  | .store .. => true
  | .readReg .. => true
  | _ => false

/-- A move replays its events, or is one of the two without any. -/
theorem act_cases : ∀ {a : Action} {s t : State}, act a s = .next t →
    ReplaysMove s t ∨ (a.eventless = true ∧ t.trace = s.trace)
  | .issue .., _, _, h => .inl (replaysMove_issue h)
  | .begin .., _, _, h => .inl (replaysMove_beginCommand h)
  | .caller, _, _, h => .inl (replaysMove_callerMove (outcome_eq_next.1 h))
  | .answer i, s, _, h => by cases h; exact .inl (replaysMove_writeAnswer i s)
  | .writeReg .., _, _, h => .inl (replaysMove_writeReg h)
  | .readReg .., _, _, h => .inr ⟨rfl, trace_readReg h⟩
  | .store .., _, _, h => by cases h; exact .inr ⟨rfl, rfl⟩
  | .worker, _, _, h => .inl (replaysMove_exec (i := .workerStep) h)
  | .workerLock, s, _, h => by cases h; exact .inl (replaysMove_workerLock s)
  | .reset, s, _, h => by cases h; exact .inl (replaysMove_resetNow s)
  | .resetDuring move n, s, t, h => by
    simp only [act] at h
    split at h
    · rename_i u hu
      cases h
      have hevents : EventsInBounds s u := by
        rcases act_cases hu with hreplay | ⟨-, htrace⟩
        · exact hreplay.eventsInBounds
        · exact eventsInBounds_of_trace_eq htrace
      exact .inl (replaysMove_resetWithin hevents n)
    · cases h
    · cases h

/-- The events of every move store inside the address space (R41, R48). -/
theorem eventsInBounds_act {a : Action} {s t : State} (h : act a s = .next t) : EventsInBounds s t := by
  rcases act_cases h with hreplay | ⟨-, htrace⟩
  · exact hreplay.eventsInBounds
  · exact eventsInBounds_of_trace_eq htrace

theorem eventless_eq_false {a : Action} (hstore : ∀ x v, a ≠ .store x v) (hread : ∀ off width, a ≠ .readReg off width) :
    a.eventless = false := by
  cases a
  case store x v => exact absurd rfl (hstore x v)
  case readReg off width => exact absurd rfl (hread off width)
  all_goals rfl

/-- A reset after the last event of any move but a host store and a register read is the reset after the move. -/
theorem resetWithin_of_act {a : Action} {s t : State} {l : List Event} {n : Nat} (h : act a s = .next t)
    (ha : a.eventless = false) (ht : t.trace = s.trace ++ l) (hn : l.length ≤ n) : resetWithin n s t = resetNow t := by
  rcases act_cases h with ⟨⟨l', hl', -⟩, hagenda⟩ | ⟨heventless, -⟩
  · obtain rfl : l = l' := List.append_cancel_left (ht.symm.trans hl'.trace)
    exact resetWithin_of_length_le (extends_act h).cfg hagenda hl' hn
  · exact absurd (ha.symm.trans heventless) Bool.false_ne_true

theorem act_resetDuring {a : Action} {s t : State} (h : act a s = .next t) (n : Nat) :
    act (.resetDuring a n) s = .next (resetWithin n s t) := by
  simp only [act, h]

/-- Settles O54: the events of the move are cut after the `n`-th, and a move that replays its events leaves for the
reset after it what its events leave. -/
theorem resetDiscardsWork : Obligations.ResetDiscardsWork := by
  refine ⟨fun s hwf => congrArg _ (resetNow_eq hwf), fun s t move n hwf h => ?_⟩
  obtain ⟨l, ht, hb⟩ := eventsInBounds_act h
  have hu : resetWithin n s t = _ := (resetWithin_of_trace ht n).trans (resetNow_eq hwf)
  have hmem : (resetWithin n s t).mem = (l.take n).foldl replayEvent s.mem := by rw [hu]; rfl
  refine ⟨resetWithin n s t, l.take n, l.drop n, act_resetDuring h n, ?split, List.length_take_le n l, ?all, ?state, hmem,
    ?bytes, ?last⟩
  case split => rw [List.append_assoc, List.take_append_drop, ht]
  case all =>
    intro hlt
    rw [List.length_take] at hlt
    exact List.drop_eq_nil_of_le (by omega)
  case state => rw [hu]; rfl
  case bytes =>
    intro a hs
    rw [hmem]
    exact read_foldl_replayEvent _ _ (fun e he => hb e (List.mem_of_mem_take he)) hs
  case last =>
    intro hlater hstore hread
    have hreset := resetWithin_of_act h (eventless_eq_false hstore hread) ht (List.drop_eq_nil_iff.1 hlater)
    exact congrArg Host.Outcome.next hreset.symm

end Sys2Proof.Machine
end
